-- ==== Sys2Proof/Word.lean ====
section
/-! DEFINITION. The word types of the block: the byte of every byte sequence (`00_scope.md` R11, R12), the 10-bit
host command word (`30_encoding.md` R61) and the 32-bit checksum (`42_checksum_verifier.md` R125). -/

namespace Sys2Proof

/-- A byte, 0 to 255 (R11). Bit 7 is its most significant bit (R43). -/
abbrev Byte := BitVec 8

/-- The host command word `IN[9:0]` (R61). -/
abbrev CmdWord := BitVec 10

/-- A checksum, received or computed (R125, R126). -/
abbrev Checksum := BitVec 32

end Sys2Proof
end

