-- ==== Sys2Proof/Config.lean ====
section
/-! DEFINITION. What is fixed before reset and never written (`00_scope.md` R9, `10_state.md` R33): the literals and
sets the source gives, each named once, and the two parameters it leaves open (`ACC_CAP`, D7; `CS_TABLE`, D14). -/

namespace Sys2Proof

/-- The operation a status vector names, in the order of R73. -/
inductive CsOp where
  | thermistor | platinumResistance | radiative | workflow1
  deriving DecidableEq, Repr

/-- The phase a status vector names (R73). -/
inductive CsPhase where
  | start | complete
  deriving DecidableEq, Repr

/-- One entry `(vector, op, phase)` of `CS_TABLE` (R73). -/
structure CsEntry where
  vector : List Byte
  op     : CsOp
  phase  : CsPhase
  deriving DecidableEq, Repr

/-- The parameters of one instance of the block that the source leaves open (R9).
`capOver` says `ACC_CAP`: `none` is the unbounded accumulator, `some k` is the capacity `16 + k`, so that every value is
a legal capacity (`none` or at least 16). `csOther` holds the entries of `CS_TABLE` beside the known one.
DESIGN CHOICE (log 1, 2): the parameters stand in the state, as constants; safe. -/
structure Params where
  capOver : Option Nat
  csOther : List CsEntry
  deriving DecidableEq, Repr

namespace Config

/-- `HDR`, "PRDTIR01" (R65). This and the other literals are the source's, not audited (R3): UNVERIFIED, unsafe, log 15. -/
def hdr : List Byte := [0x50#8, 0x52#8, 0x44#8, 0x54#8, 0x49#8, 0x52#8, 0x30#8, 0x31#8]

/-- `FTR`, "$$$$" (R66). -/
def ftr : List Byte := [0x24#8, 0x24#8, 0x24#8, 0x24#8]

/-- `HDR_LEN` (R9). -/
abbrev hdrLen : Nat := 8

/-- `FTR_LEN` (R9). -/
abbrev ftrLen : Nat := 4

/-- `TRL_LEN`, the checksum trailer (R9). -/
abbrev trlLen : Nat := 4

/-- `MODE_KNOWN_SET` (R71): the value 0x06 is not in it. -/
def modeKnownSet : List Byte := [0x00#8, 0x01#8, 0x02#8, 0x03#8, 0x04#8, 0x05#8, 0x07#8]

/-- The one status vector the source gives (R73). -/
def knownVector : List Byte := [0x00#8, 0x02#8, 0x01#8, 0x00#8, 0x00#8, 0x00#8, 0x02#8, 0x00#8]

/-- The known entry of `CS_TABLE` (R73): thermistor, complete. -/
def knownEntry : CsEntry := ⟨knownVector, .thermistor, .complete⟩

/-- OPEN (D7): how far `ACC_CAP` of this implementation lies above 16, or that there is no bound. No body: nothing can
be proved of its value. DESIGN CHOICE (log 1), safe. -/
opaque capOver : Option Nat

/-- OPEN (D14): what this implementation lists in `CS_TABLE` beside the known entry. No body.
DESIGN CHOICE (log 2), safe. -/
opaque csEntries : List CsEntry

/-- The entries whose vectors are neither in `seen` nor earlier in the list: `CS_TABLE` has pairwise distinct vectors
(R73), and a table that repeats one gives each vector its first meaning. -/
def distinctEntries (seen : List (List Byte)) : List CsEntry → List CsEntry
  | [] => []
  | e :: t =>
    if seen.contains e.vector then distinctEntries seen t
    else e :: distinctEntries (e.vector :: seen) t

/-- The parameters of the implementation that stands in `State.reset`. -/
def params : Params := ⟨capOver, distinctEntries [knownVector] csEntries⟩

end Config

end Sys2Proof
end

