-- ==== Sys2Proof/Syntax.lean ====
section
/-! DEFINITION. The data the operations work on (records, parsed frames), what can be presented to the block, and
`Instr`: one constructor for every row of `spec/opcode_table.json`. -/

namespace Sys2Proof

/-- The record port (R74 `PORT`). -/
inductive Port where
  | data | cs
  deriving DecidableEq, Repr

/-- The three reasons for "no frame yet" (R107); `ST_PHASE = 3` never occurs (R27), so there are three values. -/
inductive Phase where
  | needHeader | needFooter | needTrailer
  deriving DecidableEq, Repr

/-- The fields of a record that are present exactly when `HDR_OK = 1` (R74), but `MODE_KNOWN`, which `DEMUX` adds. -/
structure HeaderFields where
  len        : BitVec 16
  dev        : Byte
  mode       : Byte
  avail      : Nat
  ulen       : BitVec 16
  incomplete : Bool
  csumCalc   : Checksum
  valid      : Bool
  deriving DecidableEq, Repr

/-- The result of `PARSE` (R121). `fields = none` is `HDR_OK = 0`: all of them are absent together (R122, U8). -/
structure Parsed where
  raw    : List Byte
  rawLen : Nat
  csumRx : Checksum
  fields : Option HeaderFields
  deriving DecidableEq, Repr

/-- `CS_KIND` with the `CS_OP` and `CS_PHASE` that only `KNOWN` has (R74, U9): `absent` is `NONE`. -/
inductive CsResult where
  | absent
  | skipped
  | unknown
  | known (op : CsOp) (phase : CsPhase)
  deriving DecidableEq, Repr

/-- A record (R74): the parsed frame, its port, its `MODE_KNOWN` flag and its command-status result. -/
structure Record where
  port      : Port
  parsed    : Parsed
  modeKnown : Option Bool
  cs        : CsResult
  deriving DecidableEq, Repr

/-- The completion event `CS_EVT` (R75); `op` and `phase` have no value when `valid` is false (U9). -/
structure CsEvent where
  valid : Bool
  op    : Option CsOp
  phase : Option CsPhase
  deriving DecidableEq, Repr

/-- The variants of a record (R150). -/
inductive Variant where
  | malformed
  | cmdStatusKnown (op : CsOp) (phase : CsPhase)
  | cmdStatusUnknown
  | cmdStatusInvalid
  | data
  deriving DecidableEq, Repr

/-- The conditions E1 to E10 of R181. -/
inductive Condition where
  | e1HeaderNotFound | e2FooterNotFound | e3IncompleteTrailer
  | e4ChecksumMismatch | e5DataIncomplete | e6UnknownMode | e7UnknownCommand | e8Malformed
  | e9Overflow | e10ReservedWord
  deriving DecidableEq, Repr

/-- What a `SCAN_PASS` returns (R102 to R104). -/
inductive PassResult where
  | frame (f : List Byte)
  | noFrame (why : Phase)
  deriving DecidableEq, Repr

/-- A candidate frame that has its PacketHeader fields, less the parse-mode byte: `FRAMEX` of R77 without `mode`. The
mode and command-status rows of the opcode table are about such a frame. -/
structure FrameRest where
  len  : BitVec 16
  dev  : Byte
  body : List Byte
  csum : Checksum
  deriving DecidableEq, Repr

/-- The operations of the block, one constructor per row of `spec/opcode_table.json` (R10). -/
inductive Instr where
  -- the host command word (R62) and the RST pin (R61)
  | nop (inData : Byte)
  | push (b : Byte)
  | clear (inData : Byte)
  | rsvd3 (inData : Byte)
  | reset (inw : CmdWord)
  -- the literals of the wire frame, as the scanner matches them (R102, R103), and the frame's layout (R64, R121)
  | hdr
  | ftr
  | frame (payload : List Byte) (csum : Checksum)
  -- the parse-mode map (R71): a candidate frame whose byte 11 is the row's
  | mode00CmdStatus (f : FrameRest)
  | mode01Adc24 (f : FrameRest)
  | mode02Adc24 (f : FrameRest)
  | mode03Struct (f : FrameRest)
  | mode04Adc12 (f : FrameRest)
  | mode05Adc12 (f : FrameRest)
  | mode07Adc12 (f : FrameRest)
  | modeUnknown (mode : Byte) (f : FrameRest)
  -- the command-status rows (R142 to R144): a mode-0x00 candidate frame of the row's kind
  | csThermistorComplete (f : FrameRest)
  | csUnknown (f : FrameRest)
  | csSkipped (f : FrameRest)
  -- the internal operations (R10)
  | append (c : List Byte)
  | consumePrefix (n : Nat)
  | dropPrefix (n : Nat)
  | find (pat : List Byte) (sq : List Byte) (start : Nat)
  | scanPass
  | scan
  | parse (f : List Byte)
  | csum (u : List Byte)
  | verify (computed rx : Checksum)
  | demux (p : Parsed)
  | csDecode (p : Parsed)
  | csMatch (u : List Byte)
  | emit (rec : Record)
  -- the reference operation APPEND (R166)
  | appendChunk (c : List Byte)
  deriving DecidableEq, Repr

/-- What stands before the block in one step. `pins` is the block's own input (R61). The others are the other formats
of the opcode table, so that their rows can be decoded and run; none of them is a port of the block.
DESIGN CHOICE (log 7), unsafe: a claim about the block itself is about `pins` alone. -/
inductive Presented where
  /-- the pin `RST` and the command word `IN` (formats PIN and CMD10) -/
  | pins (rst : Bool) (inw : CmdWord)
  /-- consecutive stream bytes to be matched against a literal (formats SYNC64, SYNC32) -/
  | sync (bytes : List Byte)
  /-- a candidate frame, read for its layout (format WIRE) -/
  | wire (bytes : List Byte)
  /-- a candidate frame, read for its parse-mode byte (format MODE8) -/
  | modeByte (bytes : List Byte)
  /-- a candidate frame, read for its status vector (format CSVEC) -/
  | csVector (bytes : List Byte)
  /-- a chunk of the transport (format reference) -/
  | chunk (bytes : List Byte)
  deriving DecidableEq, Repr

/-- Why `decode` rejects what is presented. No command word and no `RST` is ever rejected by it. -/
inductive DecodeError where
  /-- consecutive stream bytes that are neither `HDR` nor `FTR` (R65, R66) -/
  | noSuchLiteral
  /-- the bytes do not begin with `HDR`: no candidate frame (R104) -/
  | frameWithoutHeader
  /-- no `FTR` after the header: no candidate frame (R104) -/
  | frameWithoutFooter
  /-- not exactly 4 bytes follow the first `FTR`: no candidate frame (R104, R108) -/
  | frameTrailerLength
  /-- the payload has fewer than 4 bytes: no parse-mode byte to read (R122) -/
  | frameFieldsMissing
  /-- a status vector is read from a mode-0x00 frame only (R142) -/
  | frameNotCommandStatus
  deriving DecidableEq, Repr

end Sys2Proof
end

