-- ==== Sys2Proof/Machine/Operands.lean ====
section
/-! DEFINITION. The operand forms: byte order, slices, `FIND`, `CSUM`, and the layout of a frame. All are pure functions
of byte sequences. -/

namespace Sys2Proof.Machine

open Sys2Proof.Config

/-- The big-endian value of a byte sequence (R42), for any length. -/
def beNat (sq : List Byte) : Nat := sq.foldl (fun a b => a * 256 + b.toNat) 0

/-- `BE16` (R42). -/
def be16 (sq : List Byte) : BitVec 16 := BitVec.ofNat 16 (beNat sq)

/-- `BE32` (R42). -/
def be32 (sq : List Byte) : BitVec 32 := BitVec.ofNat 32 (beNat sq)

/-- The two bytes of a length field, more significant first (R64, R77). -/
def enc16 (v : BitVec 16) : List Byte := [v.extractLsb' 8 8, v.extractLsb' 0 8]

/-- `enc32` of R77. -/
def enc32 (v : BitVec 32) : List Byte :=
  [v.extractLsb' 24 8, v.extractLsb' 16 8, v.extractLsb' 8 8, v.extractLsb' 0 8]

/-- `sq[a:b]` (R12). -/
def slice (sq : List Byte) (a b : Nat) : List Byte := (sq.take b).drop a

/-- The least `i` offsets on at which `pat` stands in `sq`, counted from `at0`. -/
def findFrom (pat : List Byte) (at0 : Nat) : List Byte → Option Nat
  | [] => if pat.isPrefixOf [] then some at0 else none
  | b :: t => if pat.isPrefixOf (b :: t) then some at0 else findFrom pat (at0 + 1) t

/-- `FIND(pat, s, start)` (R101): the least `i >= start` at which `pat` stands wholly inside `sq`. -/
def findPat (pat sq : List Byte) (start : Nat) : Option Nat := findFrom pat start (sq.drop start)

/-- `sum(s)` of R12. -/
def sumBytes (u : List Byte) : Nat := (u.map BitVec.toNat).sum

/-- `CSUM(U)` (R125): the sum of the bytes modulo 2^32. -/
def checksum (u : List Byte) : Checksum := BitVec.ofNat 32 (sumBytes u)

/-- The wire layout of a candidate frame (R64): header, payload, footer, trailer. -/
def frameBytes (payload : List Byte) (c : Checksum) : List Byte := hdr ++ payload ++ ftr ++ enc32 c

/-- The payload of a frame that has its PacketHeader fields (R67). -/
def restPayload (mode : Byte) (f : FrameRest) : List Byte := enc16 f.len ++ [f.dev, mode] ++ f.body

/-- `FRAMEX(len, dev, mode, body, csum)` (R77). -/
def restFrame (mode : Byte) (f : FrameRest) : List Byte := frameBytes (restPayload mode f) f.csum

/-- The useful data of such a frame (R124): the body, clipped to the declared length. -/
def restUseful (f : FrameRest) : List Byte := f.body.take f.len.toNat

/-- The rest of `FRAME(dev, mode, u)` (R77): a truthful length and the right checksum. -/
def truthfulRest (dev : Byte) (u : List Byte) : FrameRest := ⟨BitVec.ofNat 16 u.length, dev, u, checksum u⟩

/-- `FRAME(dev, mode, u)` (R77), for `|u| <= 65535`. -/
def frameOf (dev mode : Byte) (u : List Byte) : List Byte := restFrame mode (truthfulRest dev u)

/-- The payload does not bring the first footer forward: the first `FTR` at or after its start is the one that follows
it (R104, R108, R110). Every candidate frame has such a payload. -/
def framed (payload : List Byte) : Bool := findPat ftr (payload ++ ftr) 0 == some payload.length

end Sys2Proof.Machine
end

