-- ==== Sys2Proof/Machine/Flags.lean ====
section
/-! DEFINITION. The flags and codes: per-record flags (R26), the scanner phase as a function of the accumulator (R28),
`CS_EVT` (R75), the conditions of R181, the variants of R150, and the numbers the wires carry. -/

namespace Sys2Proof.Machine

open Sys2Proof.Config

/-- `MODE_KNOWN` (R71). -/
def modeKnownFlag (mode : Byte) : Bool := modeKnownSet.contains mode

/-- `INCOMPLETE` (R124): the declared length exceeds the bytes present. -/
def incompleteFlag (len : BitVec 16) (avail : Nat) : Bool := decide (avail < len.toNat)

/-- `VERIFY(calc, rx)` (R127). -/
def verifyFlag (computed rx : Checksum) : Bool := computed == rx

/-- `HDR_OK` (R122). -/
def hdrOk (p : Parsed) : Bool := p.fields.isSome

/-- The scanner phase of an accumulator (R28). -/
def phaseOf (acc : List Byte) : Phase :=
  match findPat hdr acc 0 with
  | none => .needHeader
  | some h =>
    match findPat ftr acc (h + 8) with
    | none => .needFooter
    | some _ => .needTrailer

/-- The code of a phase on `ST_PHASE` (R27, R107). -/
def phaseCode : Phase → BitVec 2
  | .needHeader => 0
  | .needFooter => 1
  | .needTrailer => 2

/-- The code of a port (R74). -/
def portCode : Port → BitVec 1
  | .data => 0
  | .cs => 1

/-- `CS_KIND` (R74). -/
def csKindCode : CsResult → BitVec 2
  | .absent => 0
  | .skipped => 1
  | .unknown => 2
  | .known _ _ => 3

/-- `CS_OP` (R73). -/
def csOpCode : CsOp → BitVec 2
  | .thermistor => 0
  | .platinumResistance => 1
  | .radiative => 2
  | .workflow1 => 3

/-- `CS_PHASE` (R73). -/
def csPhaseCode : CsPhase → BitVec 1
  | .start => 0
  | .complete => 1

/-- `CS_EVT` (R75, R145): raised for `KNOWN` records only. -/
def csEvent (r : Record) : CsEvent :=
  match r.cs with
  | .known op ph => ⟨true, some op, some ph⟩
  | .absent => ⟨false, none, none⟩
  | .skipped => ⟨false, none, none⟩
  | .unknown => ⟨false, none, none⟩

/-- The variant of a record (R150). -/
def variantOf (r : Record) : Variant :=
  match r.parsed.fields with
  | none => .malformed
  | some f =>
    if f.mode = 0x00#8 then
      if f.valid then
        match r.cs with
        | .known op ph => .cmdStatusKnown op ph
        | .absent => .cmdStatusUnknown
        | .skipped => .cmdStatusUnknown
        | .unknown => .cmdStatusUnknown
      else .cmdStatusInvalid
    else .data

/-- The conditions a record reports (R181, E4 to E8), in the order of their codes. -/
def recordConditions (r : Record) : List Condition :=
  (match r.parsed.fields with
    | none => []
    | some f => (if f.valid then [] else [.e4ChecksumMismatch]) ++ (if f.incomplete then [.e5DataIncomplete] else [])) ++
  (if r.modeKnown = some false then [.e6UnknownMode] else []) ++
  (if r.cs = .unknown then [.e7UnknownCommand] else []) ++
  (if hdrOk r.parsed then [] else [.e8Malformed])

/-- The condition a phase reports (R181, E1 to E3). -/
def phaseCondition : Phase → Condition
  | .needHeader => .e1HeaderNotFound
  | .needFooter => .e2FooterNotFound
  | .needTrailer => .e3IncompleteTrailer

end Sys2Proof.Machine
end

