-- ==== Sys2Proof/Machine/Frame.lean ====
section
/-! DEFINITION. What the block computes from one candidate frame, as pure functions of the frame and of the constants
(R149): `PARSE`, `CS_MATCH`, `CS_DECODE`, `DEMUX`. -/

namespace Sys2Proof.Machine

open Sys2Proof.Config

/-- The fields `PARSE` derives from a payload that holds its 4 PacketHeader bytes (R123 to R127): `rest` is what follows
them. -/
def headerFields (len : BitVec 16) (dev mode : Byte) (rest : List Byte) (rx : Checksum) : HeaderFields :=
  let ulen : BitVec 16 := BitVec.ofNat 16 (min len.toNat rest.length)
  let sum := checksum (rest.take ulen.toNat)
  { len := len, dev := dev, mode := mode, avail := rest.length, ulen := ulen,
    incomplete := incompleteFlag len rest.length, csumCalc := sum, valid := verifyFlag sum rx }

/-- `PARSE(F)` (R121). -/
def parseFrame (f : List Byte) : Parsed :=
  let rx := be32 (f.drop (f.length - 4))
  match slice f 8 (f.length - 8) with
  | l1 :: l0 :: dev :: mode :: rest => ⟨f, f.length, rx, some (headerFields (be16 [l1, l0]) dev mode rest rx)⟩
  | _ => ⟨f, f.length, rx, none⟩

/-- The useful data of a record, the view `RAW[12 : 12 + ULEN]` (R74); it has no value when `HDR_OK = 0`. -/
def usefulData (p : Parsed) : Option (List Byte) :=
  p.fields.map fun f => slice p.raw 12 (12 + f.ulen.toNat)

/-- `ACC_CAP` (R9). -/
def accCap (p : Params) : Option Nat := p.capOver.map (16 + ·)

/-- `CS_TABLE` (R73): the known entry and the others. -/
def csTable (p : Params) : List CsEntry := knownEntry :: p.csOther

/-- The vectors of `CS_TABLE` are pairwise distinct (R73). -/
def tableDistinct (p : Params) : Bool := decide ((csTable p).map CsEntry.vector).Nodup

/-- `CS_MATCH(U)` (R143). -/
def matchVector (p : Params) (u : List Byte) : Option (CsOp × CsPhase) :=
  ((csTable p).find? fun e => e.vector == u).map fun e => (e.op, e.phase)

/-- What a table lookup says of a valid frame (R142, R144). -/
def lookupResult (m : Option (CsOp × CsPhase)) : CsResult :=
  match m with
  | none => .unknown
  | some (op, ph) => .known op ph

/-- `CS_DECODE(p)` (R142); a frame without a mode byte has nothing to decode (R147). -/
def decodeStatus (c : Params) (p : Parsed) : CsResult :=
  match p.fields with
  | none => .absent
  | some f => if f.valid then lookupResult (matchVector c (slice p.raw 12 (12 + f.ulen.toNat))) else .skipped

/-- `DEMUX(p)` (R141). -/
def demuxFrame (c : Params) (p : Parsed) : Record :=
  match p.fields with
  | none => ⟨.data, p, none, .absent⟩
  | some f =>
    if f.mode = 0x00#8 then ⟨.cs, p, some true, decodeStatus c p⟩
    else ⟨.data, p, some (modeKnownFlag f.mode), .absent⟩

/-- The record of a candidate frame: `DEMUX(PARSE(F))` (R105). -/
def recordOf (c : Params) (f : List Byte) : Record := demuxFrame c (parseFrame f)

/-- The payload and the trailer of a candidate frame, or why the bytes are none (R104): header, then the first footer,
then exactly 4 bytes. -/
def splitFrame (f : List Byte) : Except DecodeError (List Byte × Checksum) :=
  if f.take 8 = hdr then
    match findPat ftr f 8 with
    | none => .error .frameWithoutFooter
    | some i =>
      if f.length = i + 8 then .ok (slice f 8 i, be32 (f.drop (i + 4))) else .error .frameTrailerLength
  else .error .frameWithoutHeader

/-- The bytes are a candidate frame: the scanner can extract exactly them (R104). -/
def isCandidate (f : List Byte) : Bool :=
  match splitFrame f with
  | .ok _ => true
  | .error _ => false

/-- The frame of the operands is checksum-valid (R127). -/
def restValid (f : FrameRest) : Bool := verifyFlag (checksum (restUseful f)) f.csum

end Sys2Proof.Machine
end

