-- ==== Sys2Proof/WellFormed.lean ====
section
/-! DEFINITION. Which instructions are well-formed: the operands the spec gives each operation. A meaning does not ask
(DESIGN CHOICE, log 12, unsafe for ill-formed operands). -/

namespace Sys2Proof

open Sys2Proof.Machine Sys2Proof.Config

/-- A result of `PARSE` (R121, R141): its `RAW` is a candidate frame and every other field is what `PARSE` gives. -/
def parsedWf (p : Parsed) : Bool := isCandidate p.raw && parseFrame p.raw == p

/-- A record some `CS_TABLE` gives (R150): routed by its mode byte, with a command-status result of its kind. -/
def recordWf (r : Record) : Bool :=
  parsedWf r.parsed &&
  match r.parsed.fields with
  | none => r.port == .data && r.modeKnown == none && r.cs == .absent
  | some f =>
    if f.mode = 0x00#8 then
      r.port == .cs && r.modeKnown == some true &&
        (match r.cs with
          | .absent => false
          | .skipped => !f.valid
          | .unknown => f.valid && usefulData r.parsed != some knownVector
          | .known op ph => f.valid && (usefulData r.parsed != some knownVector || (op == .thermistor && ph == .complete)))
    else r.port == .data && r.modeKnown == some (modeKnownFlag f.mode) && r.cs == .absent

/-- The operands of an instruction are ones the spec gives it. A host operation admits every operand (R62). -/
def wellFormed : Instr → Bool
  | .nop _ => true
  | .push _ => true
  | .clear _ => true
  | .rsvd3 _ => true
  | .reset _ => true
  | .hdr => true
  | .ftr => true
  | .frame payload _ => framed payload
  | .mode00CmdStatus f => framed (restPayload 0x00#8 f)
  | .mode01Adc24 f => framed (restPayload 0x01#8 f)
  | .mode02Adc24 f => framed (restPayload 0x02#8 f)
  | .mode03Struct f => framed (restPayload 0x03#8 f)
  | .mode04Adc12 f => framed (restPayload 0x04#8 f)
  | .mode05Adc12 f => framed (restPayload 0x05#8 f)
  | .mode07Adc12 f => framed (restPayload 0x07#8 f)
  | .modeUnknown m f => framed (restPayload m f) && !modeKnownFlag m
  | .csThermistorComplete f => framed (restPayload 0x00#8 f) && restValid f && restUseful f == knownVector
  | .csUnknown f => framed (restPayload 0x00#8 f) && restValid f && restUseful f != knownVector
  | .csSkipped f => framed (restPayload 0x00#8 f) && !restValid f
  | .append _ => true
  | .consumePrefix _ => true
  | .dropPrefix _ => true
  | .find pat _ _ => pat == hdr || pat == ftr
  | .scanPass => true
  | .scan => true
  | .parse f => isCandidate f
  | .csum u => decide (u.length ≤ 65535)
  | .verify _ _ => true
  | .demux p => parsedWf p
  | .csDecode p => parsedWf p && (p.fields.map HeaderFields.mode == some 0x00#8)
  | .csMatch u => decide (u.length ≤ 65535)
  | .emit r => recordWf r
  | .appendChunk _ => true

/-- The internal operations of R10, which the host never issues and which have no encoding. -/
def isInternal : Instr → Bool
  | .nop _ => false
  | .push _ => false
  | .clear _ => false
  | .rsvd3 _ => false
  | .reset _ => false
  | .hdr => false
  | .ftr => false
  | .frame _ _ => false
  | .mode00CmdStatus _ => false
  | .mode01Adc24 _ => false
  | .mode02Adc24 _ => false
  | .mode03Struct _ => false
  | .mode04Adc12 _ => false
  | .mode05Adc12 _ => false
  | .mode07Adc12 _ => false
  | .modeUnknown _ _ => false
  | .csThermistorComplete _ => false
  | .csUnknown _ => false
  | .csSkipped _ => false
  | .append _ => true
  | .consumePrefix _ => true
  | .dropPrefix _ => true
  | .find _ _ _ => true
  | .scanPass => true
  | .scan => true
  | .parse _ => true
  | .csum _ => true
  | .verify _ _ => true
  | .demux _ => true
  | .csDecode _ => true
  | .csMatch _ => true
  | .emit _ => true
  | .appendChunk _ => false

end Sys2Proof
end

