-- ==== Sys2Proof/Decode.lean ====
section
/-! DEFINITION. Decoding what is presented to an instruction, total, rejecting by name; then the encoder; then the words
of `spec/opcode_table.json` as the host numbers them. -/

namespace Sys2Proof

open Sys2Proof.Machine Sys2Proof.Config

/-- The pin and the command word (R61, R62): `RST` wins, then `IN[9:8]` selects. -/
def decodePins (rst : Bool) (inw : CmdWord) : Instr :=
  let op := inw.extractLsb' 8 2
  let data := inw.extractLsb' 0 8
  if rst then .reset inw
  else if op = 0#2 then .nop data
  else if op = 1#2 then .push data
  else if op = 2#2 then .clear data
  else .rsvd3 data

/-- Consecutive stream bytes against the two literals, byte-exactly (R65, R66). -/
def decodeSync (bytes : List Byte) : Except DecodeError Instr :=
  if bytes = hdr then .ok .hdr else if bytes = ftr then .ok .ftr else .error .noSuchLiteral

/-- The layout of a candidate frame (R64). -/
def decodeWire (bytes : List Byte) : Except DecodeError Instr :=
  match splitFrame bytes with
  | .error e => .error e
  | .ok (payload, c) => .ok (.frame payload c)

/-- The parse-mode byte of a candidate frame and the rest of it (R67, R69). -/
def splitMode (bytes : List Byte) : Except DecodeError (Byte × FrameRest) :=
  match splitFrame bytes with
  | .error e => .error e
  | .ok (payload, c) =>
    match payload with
    | l1 :: l0 :: dev :: mode :: body => .ok (mode, ⟨be16 [l1, l0], dev, body, c⟩)
    | _ => .error .frameFieldsMissing

/-- The row of the parse-mode map (R71). -/
def modeRow (mode : Byte) (f : FrameRest) : Instr :=
  if mode = 0x00#8 then .mode00CmdStatus f
  else if mode = 0x01#8 then .mode01Adc24 f
  else if mode = 0x02#8 then .mode02Adc24 f
  else if mode = 0x03#8 then .mode03Struct f
  else if mode = 0x04#8 then .mode04Adc12 f
  else if mode = 0x05#8 then .mode05Adc12 f
  else if mode = 0x07#8 then .mode07Adc12 f
  else .modeUnknown mode f

/-- A candidate frame read for its parse-mode byte (R71). -/
def decodeMode (bytes : List Byte) : Except DecodeError Instr :=
  match splitMode bytes with
  | .error e => .error e
  | .ok (mode, f) => .ok (modeRow mode f)

/-- The command-status row of a mode-0x00 frame (R142 to R144): invalid, the known vector, or any other. -/
def statusRow (f : FrameRest) : Instr :=
  if restValid f then
    if restUseful f = knownVector then .csThermistorComplete f else .csUnknown f
  else .csSkipped f

/-- A candidate frame read for its status vector (R142). -/
def decodeStatusFrame (bytes : List Byte) : Except DecodeError Instr :=
  match splitMode bytes with
  | .error e => .error e
  | .ok (mode, f) => if mode = 0x00#8 then .ok (statusRow f) else .error .frameNotCommandStatus

/-- Decoding, total. -/
def decode : Presented → Except DecodeError Instr
  | .pins rst inw => .ok (decodePins rst inw)
  | .sync bytes => decodeSync bytes
  | .wire bytes => decodeWire bytes
  | .modeByte bytes => decodeMode bytes
  | .csVector bytes => decodeStatusFrame bytes
  | .chunk bytes => .ok (.appendChunk bytes)

/-- A command word of R62: the operation code over the data byte. -/
def cmdWord (op : BitVec 2) (data : Byte) : CmdWord := op ++ data

/-- Encoding: what is presented to have the instruction run. The internal operations have no encoding (R10). -/
def encode : Instr → Option Presented
  | .nop d => some (.pins false (cmdWord 0#2 d))
  | .push b => some (.pins false (cmdWord 1#2 b))
  | .clear d => some (.pins false (cmdWord 2#2 d))
  | .rsvd3 d => some (.pins false (cmdWord 3#2 d))
  | .reset inw => some (.pins true inw)
  | .hdr => some (.sync Config.hdr)
  | .ftr => some (.sync Config.ftr)
  | .frame payload c => some (.wire (frameBytes payload c))
  | .mode00CmdStatus f => some (.modeByte (restFrame 0x00#8 f))
  | .mode01Adc24 f => some (.modeByte (restFrame 0x01#8 f))
  | .mode02Adc24 f => some (.modeByte (restFrame 0x02#8 f))
  | .mode03Struct f => some (.modeByte (restFrame 0x03#8 f))
  | .mode04Adc12 f => some (.modeByte (restFrame 0x04#8 f))
  | .mode05Adc12 f => some (.modeByte (restFrame 0x05#8 f))
  | .mode07Adc12 f => some (.modeByte (restFrame 0x07#8 f))
  | .modeUnknown m f => some (.modeByte (restFrame m f))
  | .csThermistorComplete f => some (.csVector (restFrame 0x00#8 f))
  | .csUnknown f => some (.csVector (restFrame 0x00#8 f))
  | .csSkipped f => some (.csVector (restFrame 0x00#8 f))
  | .append _ => none
  | .consumePrefix _ => none
  | .dropPrefix _ => none
  | .find _ _ _ => none
  | .scanPass => none
  | .scan => none
  | .parse _ => none
  | .csum _ => none
  | .verify _ _ => none
  | .demux _ => none
  | .csDecode _ => none
  | .csMatch _ => none
  | .emit _ => none
  | .appendChunk c => some (.chunk c)

/-- The `n` bytes of a number, the most significant first: the order in which the opcode table writes a run of stream
bytes ("first byte most significant"). -/
def bytesOf : Nat → Nat → List Byte
  | 0, _ => []
  | n + 1, w => bytesOf n (w / 256) ++ [BitVec.ofNat 8 w]

/-- What a row's bits stand for. 16 bits are a command word with `RST = 0`; the 8-bit word 1 is the pin `RST = 1`; any
other 8-bit word is a parse-mode byte, in a frame whose other operands are zero; 64 bits that are not `HDR` are the
useful data of a truthful mode-0x00 frame; everything else is a run of stream bytes. DESIGN CHOICE (log 8), safe. -/
def tableWord (nbits w : Nat) : Presented :=
  if nbits = 16 ∧ w < 1024 then .pins false (BitVec.ofNat 10 w)
  else if nbits = 8 ∧ w = 1 then .pins true 0#10
  else if nbits = 8 ∧ w < 256 then .modeByte (restFrame (BitVec.ofNat 8 w) ⟨0#16, 0#8, [], 0#32⟩)
  else if nbits = 64 ∧ bytesOf 8 w ≠ hdr then .csVector (frameOf 0x00#8 0x00#8 (bytesOf 8 w))
  else .sync (bytesOf (nbits / 8) w)

/-- The instruction the decoder reads from a row's bits. -/
def decodeTableWord (nbits w : Nat) : Option Instr :=
  match decode (tableWord nbits w) with
  | .ok i => some i
  | .error _ => none

end Sys2Proof
end

