-- ==== Sys2Proof/Machine/State.lean ====
section
/-! DEFINITION. The state of the machine, as plain data, and its value after `RESET`; the reasons a step can stop. -/

namespace Sys2Proof.Machine

/-- What an internal operation returns to the operation that called it (`00_scope.md` R10): a value local to the step
(`10_state.md` R23), kept so that an internal operation run by itself can be observed. DESIGN CHOICE (log 6), safe. -/
inductive Ret where
  | nothing
  /-- `consume_prefix` (R91) -/
  | bytes (sq : List Byte)
  /-- `FIND` (R101) -/
  | offset (o : Option Nat)
  /-- step 1 found `HDR` at `h` and the pass goes on (R102) -/
  | headerAt (h : Nat)
  /-- step 2 found `FTR` at `f` and the pass goes on (R103) -/
  | footerAt (h f : Nat)
  /-- `SCAN_PASS` (R102 to R104) -/
  | pass (r : PassResult)
  /-- the reason with which `SCAN` ended (R105) -/
  | scanned (why : Phase)
  /-- `PARSE` (R121) -/
  | parsed (p : Parsed)
  /-- `CSUM` (R125) -/
  | sum (c : Checksum)
  /-- `VERIFY` (R127) -/
  | verdict (b : Bool)
  /-- `DEMUX` (R141) -/
  | record (r : Record)
  /-- `CS_DECODE` (R142) -/
  | status (c : CsResult)
  /-- `CS_MATCH` (R143) -/
  | entry (m : Option (CsOp × CsPhase))
  deriving DecidableEq, Repr

/-- The state. `acc` and `ovf` are the two pieces of state of the block (R20). `out` and `presented` are what is seen
on its record ports (R33, R34). `live` tells the specified state from the one before the first `RESET` (R201). `cfg`
holds the parameters, which no operation writes (R33). `input` and `ret` are the model's own: what is presented in the
steps to come, and the value an internal operation returned.
`acc` is a byte list rather than a list of cells (DESIGN CHOICE, log 13, safe). -/
structure State where
  /-- `ACC` (R21), oldest byte first: offset `i` of R40 is index `i` -/
  acc       : List Byte
  /-- `OVF` (R25) -/
  ovf       : Bool
  /-- `OUT`, all records emitted since `RESET` (R33, R148) -/
  out       : List Record
  /-- the records presented on the ports in this step (R34, R191); DEDUCED (log 5), safe -/
  presented : List Record
  /-- a `RESET` has been given (R201); DEDUCED (log 11), safe -/
  live      : Bool
  /-- `ACC_CAP` and `CS_TABLE` of this instance (R9) -/
  cfg       : Params
  /-- what is presented in the coming steps, the next first (R48); DESIGN CHOICE (log 3), safe -/
  input     : List Presented
  /-- the value the last internal operation returned (R23) -/
  ret       : Ret
  deriving DecidableEq, Repr

/-- Reasons to fault: none. "No behaviour of this block is treated as `fault` or `stuck`"
(`93_implementation_defined.md`; `60_exceptions.md` R180), so no constructor is raised by anyone, which is safe. -/
inductive Fault where
  deriving DecidableEq, Repr

/-- Reasons a step is refused. -/
inductive Refusal where
  /-- Raised by an arm of `exec` that has no meaning yet; no arm raises it. Safe. -/
  | notModelled (mnemonic : String)
  /-- Raised by the meaning of `IN_OP = 3`: the spec gives the word no step (R164, E10). Safe. -/
  | reservedCommandWord
  /-- Raised by `step` when anything but `RESET` is presented before the first `RESET` (R201, U2). Safe. -/
  | beforeReset
  /-- Raised by `step` when what is presented is neither the block's own input nor a row of the opcode table. Safe. -/
  | undecodable (why : DecodeError)
  deriving DecidableEq, Repr

/-- The state right after `RESET` (R34, R200), with nothing presented yet. -/
def State.reset : State :=
  { acc := [], ovf := false, out := [], presented := [], live := true, cfg := Config.params, input := [],
    ret := .nothing }

end Sys2Proof.Machine
end

