-- ==== Sys2Proof/Machine/Ops.lean ====
section
/-! DEFINITION. The named operations over the state, from which every meaning is made.

There is no exception to take and none to return from: no condition traps, saves anything or transfers control
(`60_exceptions.md` R180, R193, R194). What stands in their place is here: the overflow (`takeOverflow`, E9), the three
ways a scan ends (`scanPass`, E1 to E3) and the flags of a record, which `parseFrame` and `demuxFrame` compute. -/

namespace Sys2Proof.Machine

open Sys2Proof.Config

/-! The accumulator (`40_accumulator.md`) and its reading (`20_memory.md`). -/

/-- The byte at an offset of `ACC` (R40); an offset at or beyond `|ACC|` has none. -/
def readByte (s : State) (a : Nat) : Option Byte := s.acc[a]?

/-- `MemRead(addr, n)` (R13, R42): defined only inside `ACC`. -/
def memRead (s : State) (addr n : Nat) : Option Nat :=
  if addr + n ≤ s.acc.length then some (beNat (slice s.acc addr (addr + n))) else none

/-- `ACC` as cells: offset and byte, the lowest offset first. -/
def State.cells (s : State) : List Host.Cell := s.acc.zipIdx.map fun x => (x.2, x.1)

/-- The canonical form of memory as cells: the offsets are 0, 1, 2, … without a hole (R40). -/
def Memory.wf (m : List Host.Cell) : Bool := m.map Prod.fst == List.range m.length

/-- `append(c)` (R90). -/
def appendBytes (c : List Byte) (s : State) : State := { s with acc := s.acc ++ c }

/-- `consume_prefix(n)` (R91): what is returned, and the state without it. Clamped where `n > |ACC|` (R94, U13; DESIGN
CHOICE, log 9, safe). -/
def consumeFront (n : Nat) (s : State) : List Byte × State := (s.acc.take n, { s with acc := s.acc.drop n })

/-- `drop_prefix(n)` (R92). Clamped where `n > |ACC|` (R94, U13). -/
def dropFront (n : Nat) (s : State) : State := { s with acc := s.acc.drop n }

/-- `ACC <- []; OVF <- 0`, what `CLEAR` and `RESET` have in common (R163, R165, R202). -/
def clearState (s : State) : State := { s with acc := [], ovf := false }

/-! The status outputs (R27). -/

/-- `ST_LEVEL`. -/
def stLevel (s : State) : Nat := s.acc.length

/-- `ST_PHASE`. -/
def stPhase (s : State) : Phase := phaseOf s.acc

/-- `ST_OVF`. -/
def stOvf (s : State) : Bool := s.ovf

/-- The events presented on the CS port beside the records of this step (R75, R148). -/
def presentedEvents (s : State) : List CsEvent := (s.presented.filter fun r => r.port == .cs).map csEvent

/-! Records and returned values. -/

/-- `EMIT` (R148): the record joins `OUT` and is presented on its port. -/
def emitRecord (r : Record) (s : State) : State := { s with out := s.out ++ [r], presented := s.presented ++ [r] }

/-- An internal operation returns a value to its caller. -/
def setRet (r : Ret) (s : State) : State := { s with ret := r }

/-! The scanner (`41_frame_scanner.md`). -/

/-- `SCAN_PASS` step 1 (R102): where `HDR` stands; where it does not, `ACC` is trimmed. -/
def headerSearch (s : State) : Option Nat × State :=
  match findPat hdr s.acc 0 with
  | none => (none, if s.acc.length > hdrLen then dropFront (s.acc.length - (hdrLen - 1)) s else s)
  | some h => (some h, s)

/-- `SCAN_PASS` step 2 (R103), reached with `h`. -/
def footerSearch (h : Nat) (s : State) : Option Nat × State :=
  match findPat ftr s.acc (h + hdrLen) with
  | none => (none, dropFront h s)
  | some f => (some f, s)

/-- `SCAN_PASS` step 3 (R104), reached with `h` and `f`. -/
def trailerCheck (h f : Nat) (s : State) : PassResult × State :=
  if s.acc.length ≥ f + (ftrLen + trlLen) then
    let r := consumeFront (f - h + (ftrLen + trlLen)) (dropFront h s)
    (.frame r.1, r.2)
  else (.noFrame .needTrailer, dropFront h s)

/-- `SCAN_PASS` (R102 to R104). -/
def passOnce (s : State) : PassResult × State :=
  match headerSearch s with
  | (none, s1) => (.noFrame .needHeader, s1)
  | (some h, s1) =>
    match footerSearch h s1 with
    | (none, s2) => (.noFrame .needFooter, s2)
    | (some f, s2) => trailerCheck h f s2

/-- The loop of `SCAN` (R105) for at most `n` passes. -/
def scanLoop : Nat → State → Phase × State
  | 0, s => (stPhase s, s)
  | n + 1, s =>
    match passOnce s with
    | (.frame f, s1) => scanLoop n (emitRecord (recordOf s1.cfg f) s1)
    | (.noFrame why, s1) => (why, s1)

/-- `SCAN` (R105): the reason it ends with, and the state. `|ACC| div 16 + 1` passes always suffice (R106; DEDUCED, log
17, safe). -/
def scanAll (s : State) : Phase × State := scanLoop (s.acc.length / 16 + 1) s

/-! Bytes that arrive (`44_host_ops.md`). -/

/-- `ACC_CAP ≠ none and |ACC| = ACC_CAP` (R162). No accumulator shorter than 16 is full, whatever the capacity (R9). -/
def isFull (s : State) : Bool := decide (16 ≤ s.acc.length) && accCap s.cfg == some s.acc.length

/-- The overflow of a full accumulator, E9 (R169): `OVF` is set and the oldest byte goes. -/
def takeOverflow (s : State) : State := dropFront 1 { s with ovf := true }

/-- `PUSH b` (R162). -/
def pushByte (b : Byte) (s : State) : State :=
  (scanAll (appendBytes [b] (if isFull s then takeOverflow s else s))).2

/-- A run of `PUSH`, one for each byte in order (R77). -/
def pushAll (c : List Byte) (s : State) : State := c.foldl (fun t b => pushByte b t) s

/-- `APPEND c` (R166): `append(c); SCAN` where the accumulator is unbounded, the run of `PUSH` where it is not
(DESIGN CHOICE, log 10, unsafe). -/
def appendAndScan (c : List Byte) (s : State) : State :=
  if accCap s.cfg = none then (scanAll (appendBytes c s)).2 else pushAll c s

/-! The rows of the parse-mode map and of the status table, delivered (`43_cmdstatus_demux.md`). -/

/-- A frame that does not carry command status is delivered on the DATA port (R146). -/
def deliverData (known : Bool) (mode : Byte) (f : FrameRest) (s : State) : State :=
  emitRecord ⟨.data, parseFrame (restFrame mode f), some known, .absent⟩ s

/-- A mode-0x00 frame is delivered on the CS port with its command-status result (R141, R142). -/
def deliverStatus (c : CsResult) (f : FrameRest) (s : State) : State :=
  emitRecord ⟨.cs, parseFrame (restFrame 0x00#8 f), some true, c⟩ s

/-! A step's beginning (`20_memory.md` R48, `60_exceptions.md` R191). -/

/-- What is presented in the coming step. When nothing is, no byte arrived: the canonical `NOP` (R161;
DESIGN CHOICE, log 4, unsafe). -/
def fetched (s : State) : Presented :=
  match s.input with
  | [] => .pins false 0x000#10
  | w :: _ => w

/-- The step begins: what was presented is taken, and what held for the last step only is gone (R23, R213). -/
def beginStep (s : State) : State := { s with input := s.input.tail, presented := [], ret := .nothing }

/-- `RST = 1` is presented (R61). -/
def rstPresented (s : State) : Bool :=
  match fetched s with
  | .pins rst _ => rst
  | .sync _ => false
  | .wire _ => false
  | .modeByte _ => false
  | .csVector _ => false
  | .chunk _ => false

/-- Whether the model has a step (R201): before the first `RESET`, for `RESET` only. -/
def mayStep (s : State) : Bool := s.live || rstPresented s

/-- The state in which a word of the opcode table is what is presented next (log 3). -/
def presentNext (s : State) (w : Presented) : State := { s with live := true, input := w :: s.input.tail }

end Sys2Proof.Machine
end

