-- ==== Sys2Proof/Machine/HostOps.lean ====
section
/-! DEFINITION. The host operations `NOP`, `PUSH`, `CLEAR`, the reserved code and `RESET`, and the reference operation
`APPEND` (`44_host_ops.md`). -/

namespace Sys2Proof.Machine

/-- `NOP` (R161): nothing; `IN_DATA` is ignored. -/
def execNop (_inData : Byte) (s : State) : Host.Outcome State Fault Refusal := .next s

/-- `PUSH b` (R162, R169). -/
def execPush (b : Byte) (s : State) : Host.Outcome State Fault Refusal := .next (pushByte b s)

/-- `CLEAR` (R163): `OUT` stands; `IN_DATA` is ignored. -/
def execClear (_inData : Byte) (s : State) : Host.Outcome State Fault Refusal := .next (clearState s)

/-- `IN_OP = 3` (R164): `refuse`. -/
def execRsvd3 (_inData : Byte) (_s : State) : Host.Outcome State Fault Refusal := .refused .reservedCommandWord

/-- `RESET` (R165): the observation starts afresh and the state is specified from here on (R201); `IN` is ignored. -/
def execReset (_inw : CmdWord) (s : State) : Host.Outcome State Fault Refusal :=
  .next { clearState s with out := [], presented := [], live := true, ret := .nothing }

/-- `APPEND c` (R166). -/
def execAppendChunk (c : List Byte) (s : State) : Host.Outcome State Fault Refusal := .next (appendAndScan c s)

end Sys2Proof.Machine
end

