-- ==== Sys2Proof/Machine/Internal.lean ====
section
/-! DEFINITION. The internal operations (R10), each run by itself: its effect on the state, and the value it returns to
its caller left in `ret`. -/

namespace Sys2Proof.Machine

/-- `append(c)` (R90): no scan by itself. -/
def execAppend (c : List Byte) (s : State) : Host.Outcome State Fault Refusal := .next (appendBytes c s)

/-- `consume_prefix(n)` (R91). -/
def execConsumePrefix (n : Nat) (s : State) : Host.Outcome State Fault Refusal :=
  .next (setRet (.bytes (consumeFront n s).1) (consumeFront n s).2)

/-- `drop_prefix(n)` (R92): nothing is returned. -/
def execDropPrefix (n : Nat) (s : State) : Host.Outcome State Fault Refusal := .next (dropFront n s)

/-- `FIND(pat, s, start)` (R101). -/
def execFind (pat sq : List Byte) (start : Nat) (s : State) : Host.Outcome State Fault Refusal :=
  .next (setRet (.offset (findPat pat sq start)) s)

/-- `SCAN_PASS` (R102 to R104). -/
def execScanPass (s : State) : Host.Outcome State Fault Refusal := .next (setRet (.pass (passOnce s).1) (passOnce s).2)

/-- `SCAN` (R105). -/
def execScan (s : State) : Host.Outcome State Fault Refusal := .next (setRet (.scanned (scanAll s).1) (scanAll s).2)

/-- `PARSE(F)` (R121). -/
def execParse (f : List Byte) (s : State) : Host.Outcome State Fault Refusal := .next (setRet (.parsed (parseFrame f)) s)

/-- `CSUM(U)` (R125). -/
def execCsum (u : List Byte) (s : State) : Host.Outcome State Fault Refusal := .next (setRet (.sum (checksum u)) s)

/-- `VERIFY(calc, rx)` (R127). -/
def execVerify (computed rx : Checksum) (s : State) : Host.Outcome State Fault Refusal :=
  .next (setRet (.verdict (verifyFlag computed rx)) s)

/-- `DEMUX(p)` (R141). -/
def execDemux (p : Parsed) (s : State) : Host.Outcome State Fault Refusal :=
  .next (setRet (.record (demuxFrame s.cfg p)) s)

/-- `CS_DECODE(p)` (R142). -/
def execCsDecode (p : Parsed) (s : State) : Host.Outcome State Fault Refusal :=
  .next (setRet (.status (decodeStatus s.cfg p)) s)

/-- `CS_MATCH(U)` (R143). -/
def execCsMatch (u : List Byte) (s : State) : Host.Outcome State Fault Refusal :=
  .next (setRet (.entry (matchVector s.cfg u)) s)

/-- `EMIT` (R148). -/
def execEmit (r : Record) (s : State) : Host.Outcome State Fault Refusal := .next (emitRecord r s)

end Sys2Proof.Machine
end

