-- ==== Sys2Proof/Machine/Wire.lean ====
section
/-! DEFINITION. The rows of the wire format: `HDR` and `FTR` as the scanner matches them (R102, R103), `FRAME` as the
scanner handles it (R105), the parse-mode map (R71, R142, R146) and the command-status rows (R142 to R145). What it is to
run such a row by itself is the model's reading: DESIGN CHOICE (log 7), unsafe. -/

namespace Sys2Proof.Machine

/-- `HDR` (R102): the pass up to its first step. -/
def execHdr (s : State) : Host.Outcome State Fault Refusal :=
  match headerSearch s with
  | (none, s1) => .next (setRet (.pass (.noFrame .needHeader)) s1)
  | (some h, s1) => .next (setRet (.headerAt h) s1)

/-- `FTR` (R103): the pass up to its second step, which is reached only with a header. -/
def execFtr (s : State) : Host.Outcome State Fault Refusal :=
  match headerSearch s with
  | (none, s1) => .next (setRet (.pass (.noFrame .needHeader)) s1)
  | (some h, s1) =>
    match footerSearch h s1 with
    | (none, s2) => .next (setRet (.pass (.noFrame .needFooter)) s2)
    | (some f, s2) => .next (setRet (.footerAt h f) s2)

/-- `FRAME` (R105, R121): the candidate frame is parsed, demultiplexed and emitted. -/
def execFrame (payload : List Byte) (c : Checksum) (s : State) : Host.Outcome State Fault Refusal :=
  .next (emitRecord (recordOf s.cfg (frameBytes payload c)) s)

/-- `MODE = 0x00` (R141, R142). -/
def execMode00 (f : FrameRest) (s : State) : Host.Outcome State Fault Refusal :=
  .next (deliverStatus (decodeStatus s.cfg (parseFrame (restFrame 0x00#8 f))) f s)

/-- `MODE = 0x01` (R146). -/
def execMode01 (f : FrameRest) (s : State) : Host.Outcome State Fault Refusal := .next (deliverData true 0x01#8 f s)

/-- `MODE = 0x02` (R146). -/
def execMode02 (f : FrameRest) (s : State) : Host.Outcome State Fault Refusal := .next (deliverData true 0x02#8 f s)

/-- `MODE = 0x03` (R146). -/
def execMode03 (f : FrameRest) (s : State) : Host.Outcome State Fault Refusal := .next (deliverData true 0x03#8 f s)

/-- `MODE = 0x04` (R146). -/
def execMode04 (f : FrameRest) (s : State) : Host.Outcome State Fault Refusal := .next (deliverData true 0x04#8 f s)

/-- `MODE = 0x05` (R146). -/
def execMode05 (f : FrameRest) (s : State) : Host.Outcome State Fault Refusal := .next (deliverData true 0x05#8 f s)

/-- `MODE = 0x07` (R146). -/
def execMode07 (f : FrameRest) (s : State) : Host.Outcome State Fault Refusal := .next (deliverData true 0x07#8 f s)

/-- Any other mode (R72, R146): never an error. -/
def execModeUnknown (mode : Byte) (f : FrameRest) (s : State) : Host.Outcome State Fault Refusal :=
  .next (deliverData false mode f s)

/-- A valid mode-0x00 frame whose useful data is the known vector (R143, R145). -/
def execCsThermistorComplete (f : FrameRest) (s : State) : Host.Outcome State Fault Refusal :=
  .next (deliverStatus (.known .thermistor .complete) f s)

/-- A valid mode-0x00 frame with any other useful data (R144): unknown, unless `CS_TABLE` of this instance lists it
(DEDUCED, log 14, safe). -/
def execCsUnknown (f : FrameRest) (s : State) : Host.Outcome State Fault Refusal :=
  .next (deliverStatus (lookupResult (matchVector s.cfg (restUseful f))) f s)

/-- A mode-0x00 frame with a bad checksum (R142): the table is not consulted. -/
def execCsSkipped (f : FrameRest) (s : State) : Host.Outcome State Fault Refusal := .next (deliverStatus .skipped f s)

end Sys2Proof.Machine
end

