-- ==== Sys2Proof/Machine/Dispatch.lean ====
section
/-! DEFINITION. One arm per constructor of `Instr`. -/

namespace Sys2Proof.Machine

def exec (i : Instr) (s : State) : Host.Outcome State Fault Refusal :=
  match i with
  | .nop d => Sys2Proof.Machine.execNop d s
  | .push b => Sys2Proof.Machine.execPush b s
  | .clear d => Sys2Proof.Machine.execClear d s
  | .rsvd3 d => Sys2Proof.Machine.execRsvd3 d s
  | .reset w => Sys2Proof.Machine.execReset w s
  | .hdr => Sys2Proof.Machine.execHdr s
  | .ftr => Sys2Proof.Machine.execFtr s
  | .frame p c => Sys2Proof.Machine.execFrame p c s
  | .mode00CmdStatus f => Sys2Proof.Machine.execMode00 f s
  | .mode01Adc24 f => Sys2Proof.Machine.execMode01 f s
  | .mode02Adc24 f => Sys2Proof.Machine.execMode02 f s
  | .mode03Struct f => Sys2Proof.Machine.execMode03 f s
  | .mode04Adc12 f => Sys2Proof.Machine.execMode04 f s
  | .mode05Adc12 f => Sys2Proof.Machine.execMode05 f s
  | .mode07Adc12 f => Sys2Proof.Machine.execMode07 f s
  | .modeUnknown m f => Sys2Proof.Machine.execModeUnknown m f s
  | .csThermistorComplete f => Sys2Proof.Machine.execCsThermistorComplete f s
  | .csUnknown f => Sys2Proof.Machine.execCsUnknown f s
  | .csSkipped f => Sys2Proof.Machine.execCsSkipped f s
  | .append c => Sys2Proof.Machine.execAppend c s
  | .consumePrefix n => Sys2Proof.Machine.execConsumePrefix n s
  | .dropPrefix n => Sys2Proof.Machine.execDropPrefix n s
  | .find p q n => Sys2Proof.Machine.execFind p q n s
  | .scanPass => Sys2Proof.Machine.execScanPass s
  | .scan => Sys2Proof.Machine.execScan s
  | .parse f => Sys2Proof.Machine.execParse f s
  | .csum u => Sys2Proof.Machine.execCsum u s
  | .verify c r => Sys2Proof.Machine.execVerify c r s
  | .demux p => Sys2Proof.Machine.execDemux p s
  | .csDecode p => Sys2Proof.Machine.execCsDecode p s
  | .csMatch u => Sys2Proof.Machine.execCsMatch u s
  | .emit r => Sys2Proof.Machine.execEmit r s
  | .appendChunk c => Sys2Proof.Machine.execAppendChunk c s

end Sys2Proof.Machine
end

