-- ==== Sys2Proof/Machine/Step.lean ====
section
/-! DEFINITION. One step (`00_scope.md` R7, `44_host_ops.md` R160), and how the host presents a word of the opcode
table. -/

namespace Sys2Proof.Machine

/-- One step: what is presented is decoded and run; before the first `RESET` nothing else has a step (R201). -/
def step (s : State) : Host.Outcome State Fault Refusal :=
  if mayStep s then
    match decode (fetched s) with
    | .error e => .refused (.undecodable e)
    | .ok i => exec i (beginStep s)
  else .refused .beforeReset

/-- The same state with a word of the opcode table presented next. -/
def State.withFetchWord (s : State) (nbits w : Nat) : State := presentNext s (tableWord nbits w)

end Sys2Proof.Machine
end

