-- ==== Sys2Proof/Safety.lean ====
section
/-! DEFINITION. What a sound state is, in the terms the statements use: the rest-state shapes (R30), the capacity (R21),
the records that can be in `OUT` (R149); and runs of operations. -/

namespace Sys2Proof.Machine

open Sys2Proof.Config

/-- The shape of an accumulator at rest in a phase (the table of R30). -/
def restShape : Phase → List Byte → Bool
  | .needHeader, acc => decide (acc.length ≤ 8) && findPat hdr acc 0 == none
  | .needFooter, acc => acc.take 8 == hdr && findPat ftr acc 8 == none
  | .needTrailer, acc =>
    acc.take 8 == hdr &&
      match findPat ftr acc 8 with
      | none => false
      | some f => decide (f + 4 ≤ acc.length) && decide (acc.length < f + 8)

/-- The accumulator has the shape of its phase (R28, R30). -/
def atRest (acc : List Byte) : Bool := restShape (phaseOf acc) acc

/-- `|ACC| <= ACC_CAP`; with no capacity `OVF` is 0 for ever (R20, R21). -/
def withinCap (s : State) : Bool :=
  match accCap s.cfg with
  | none => !s.ovf
  | some n => decide (s.acc.length ≤ n)

/-- A record as the block makes it: of a candidate frame, and a function of that frame and the constants (R149). -/
def coherent (c : Params) (r : Record) : Bool := isCandidate r.parsed.raw && r == recordOf c r.parsed.raw

/-- The invariant of the machine. Before the first `RESET` only the constants are known (R201, R203). -/
def invariant (s : State) : Bool :=
  tableDistinct s.cfg &&
    (!s.live || (atRest s.acc && withinCap s && s.out.all (coherent s.cfg) && s.presented.all (coherent s.cfg)))

/-- The stream bytes an instruction brings to the accumulator. -/
def arrived : Instr → List Byte
  | .nop _ => []
  | .push b => [b]
  | .clear _ => []
  | .rsvd3 _ => []
  | .reset _ => []
  | .hdr => []
  | .ftr => []
  | .frame _ _ => []
  | .mode00CmdStatus _ => []
  | .mode01Adc24 _ => []
  | .mode02Adc24 _ => []
  | .mode03Struct _ => []
  | .mode04Adc12 _ => []
  | .mode05Adc12 _ => []
  | .mode07Adc12 _ => []
  | .modeUnknown _ _ => []
  | .csThermistorComplete _ => []
  | .csUnknown _ => []
  | .csSkipped _ => []
  | .append c => c
  | .consumePrefix _ => []
  | .dropPrefix _ => []
  | .find _ _ _ => []
  | .scanPass => []
  | .scan => []
  | .parse _ => []
  | .csum _ => []
  | .verify _ _ => []
  | .demux _ => []
  | .csDecode _ => []
  | .csMatch _ => []
  | .emit _ => []
  | .appendChunk c => c

/-- The operations whose result is a function of their operands and the constants alone (R149, and `FIND`, R101). -/
def isPure : Instr → Bool
  | .nop _ => false
  | .push _ => false
  | .clear _ => false
  | .rsvd3 _ => false
  | .reset _ => false
  | .hdr => false
  | .ftr => false
  | .frame _ _ => false
  | .mode00CmdStatus _ => false
  | .mode01Adc24 _ => false
  | .mode02Adc24 _ => false
  | .mode03Struct _ => false
  | .mode04Adc12 _ => false
  | .mode05Adc12 _ => false
  | .mode07Adc12 _ => false
  | .modeUnknown _ _ => false
  | .csThermistorComplete _ => false
  | .csUnknown _ => false
  | .csSkipped _ => false
  | .append _ => false
  | .consumePrefix _ => false
  | .dropPrefix _ => false
  | .find _ _ _ => true
  | .scanPass => false
  | .scan => false
  | .parse _ => true
  | .csum _ => true
  | .verify _ _ => true
  | .demux _ => true
  | .csDecode _ => true
  | .csMatch _ => true
  | .emit _ => false
  | .appendChunk _ => false

/-- The operations one after the other, stopping at the first that does not answer a next state. -/
def execAll : List Instr → State → Host.Outcome State Fault Refusal
  | [], s => .next s
  | i :: rest, s =>
    match exec i s with
    | .next t => execAll rest t
    | .fault e => .fault e
    | .refused r => .refused r

end Sys2Proof.Machine
end

