-- ==== Sys2Proof/Certificates/Slice0/Obligations.lean ====
section
/-! DEFINITION. The statements for the provers. -/

open Sys2Proof Sys2Proof.Machine Sys2Proof.Config

/-- A step runs the instruction it decodes (the input list, and NOP when it is empty, are the model's choice: log 3,
4). (Rests on 00_scope.md R7; 44_host_ops.md R160; 20_memory.md R46.) -/
def Obligations.StepRunsDecodedInstruction : Prop :=
  (∀ (s : State) (i : Instr), mayStep s = true → decode (fetched s) = .ok i → step s = exec i (beginStep s)) ∧
  (∀ (s : State) (w : Presented) (rest : List Presented), s.input = w :: rest →
    fetched s = w ∧ beginStep s = { s with input := rest, presented := [], ret := .nothing }) ∧
  (∀ s : State, s.live = true → s.input = [] → step s = .next { s with presented := [], ret := .nothing })

/-- After a RESET, the step on the pins is RESET when RST = 1 and else the operation of IN[9:8], and is total but for
code 3. (Rests on 44_host_ops.md R160; 30_encoding.md R61; 30_encoding.md R62.) -/
def Obligations.HostStepSelectsByPins : Prop :=
  ∀ (s : State) (rst : Bool) (inw : CmdWord) (rest : List Presented),
    s.live = true → s.input = .pins rst inw :: rest →
    let s0 : State := { s with input := rest, presented := [], ret := .nothing }
    step s =
        (if rst then exec (.reset inw) s0
          else if inw.extractLsb' 8 2 = 0#2 then exec (.nop (inw.extractLsb' 0 8)) s0
          else if inw.extractLsb' 8 2 = 1#2 then exec (.push (inw.extractLsb' 0 8)) s0
          else if inw.extractLsb' 8 2 = 2#2 then exec (.clear (inw.extractLsb' 0 8)) s0
          else .refused .reservedCommandWord) ∧
      (rst = true ∨ inw.extractLsb' 8 2 ≠ 3#2 → ∃ t, step s = .next t)

/-- A word of the opcode table, presented next, is what the next step runs (the model's withFetchWord: log 3). (Rests
on 30_encoding.md section 1; 44_host_ops.md R160.) -/
def Obligations.OpcodeTableWordRuns : Prop :=
  ∀ (s : State) (nbits w : Nat) (i : Instr), decodeTableWord nbits w = some i →
    step (s.withFetchWord nbits w) =
      exec i { s with live := true, input := s.input.tail, presented := [], ret := .nothing }

/-- Words written out from the spec's encodings decode to their instructions. (Rests on 30_encoding.md R62;
30_encoding.md R65; 30_encoding.md R66; 30_encoding.md R71; 30_encoding.md R73.) -/
def Obligations.WordsDecodeAsWritten : Prop :=
  decode (.pins false 0x000#10) = .ok (.nop 0x00#8) ∧
  decode (.pins false 0x150#10) = .ok (.push 0x50#8) ∧
  decode (.pins false 0x200#10) = .ok (.clear 0x00#8) ∧
  decode (.pins false 0x3FF#10) = .ok (.rsvd3 0xFF#8) ∧
  decode (.pins true 0x3FF#10) = .ok (.reset 0x3FF#10) ∧
  decode (.sync [0x50#8, 0x52#8, 0x44#8, 0x54#8, 0x49#8, 0x52#8, 0x30#8, 0x31#8]) = .ok .hdr ∧
  decode (.sync [0x24#8, 0x24#8, 0x24#8, 0x24#8]) = .ok .ftr ∧
  decodeTableWord 8 0x04 = some (.mode04Adc12 ⟨0#16, 0#8, [], 0#32⟩) ∧
  decodeTableWord 8 0x06 = some (.modeUnknown 0x06#8 ⟨0#16, 0#8, [], 0#32⟩) ∧
  decodeTableWord 64 0x0002010000000200 = some (.csThermistorComplete (truthfulRest 0x00#8 knownVector))

/-- Decoding the encoding of any well-formed instruction gives the instruction, whatever its operands. (Rests on
30_encoding.md R61; 30_encoding.md R62; 30_encoding.md R64; 30_encoding.md R65; 30_encoding.md R66; 30_encoding.md
R69; 30_encoding.md R71.) -/
def Obligations.DecodeInvertsEncode : Prop :=
  ∀ (i : Instr) (w : Presented), wellFormed i = true → encode i = some w → decode w = .ok i

/-- What decodes is the encoding of its well-formed instruction, never an internal one (all formats but the pins are
the model's choice: log 7). (Rests on 30_encoding.md R61; 30_encoding.md R62; 30_encoding.md R64; 30_encoding.md R69;
30_encoding.md R76; 00_scope.md R10.) -/
def Obligations.EncodeInvertsDecode : Prop :=
  ∀ (w : Presented) (i : Instr), decode w = .ok i → wellFormed i = true ∧ encode i = some w ∧ isInternal i = false

/-- NOP changes nothing, whatever IN_DATA holds, and the same is true of any number of them. (States R161.) -/
def Obligations.NopLeavesEverything : Prop :=
  (∀ (d : Byte) (s : State), exec (.nop d) s = .next s) ∧
  (∀ (ds : List Byte) (s : State), execAll (ds.map Instr.nop) s = .next s) ∧
  (∀ s : State, atRest s.acc = true → ∃ r, exec .scan s = .next { s with ret := r })

/-- CLEAR empties ACC and clears OVF, emits nothing, leaves OUT, is idempotent, and ends where RESET ends. (States
R163.) -/
def Obligations.ClearEmptiesAccumulator : Prop :=
  ∀ (d e : Byte) (w : CmdWord) (s : State), ∃ t u,
    exec (.clear d) s = .next t ∧ t = { s with acc := [], ovf := false } ∧
    stLevel t = 0 ∧ stPhase t = .needHeader ∧ stOvf t = false ∧
    exec (.clear e) t = .next t ∧
    exec (.reset w) s = .next u ∧ t.acc = u.acc ∧ t.ovf = u.ovf

/-- The reserved operation code is refused, whatever IN_DATA and the state. (States R164.) -/
def Obligations.ReservedWordRefused : Prop :=
  ∀ (d : Byte) (s : State), exec (.rsvd3 d) s = .refused .reservedCommandWord

/-- RESET gives the one initial state from any state: ACC, OVF, OUT, the ports and the status outputs, whatever IN
holds. (States R165; R200.) -/
def Obligations.ResetGivesInitialState : Prop :=
  (∀ (w v : CmdWord) (s : State), ∃ t, exec (.reset w) s = .next t ∧
    t = { State.reset with cfg := s.cfg, input := s.input } ∧
    t.acc = [] ∧ t.ovf = false ∧ t.out = [] ∧ t.presented = [] ∧
    stLevel t = 0 ∧ stPhase t = .needHeader ∧ stOvf t = false ∧
    exec (.reset v) t = .next t) ∧
  (∀ w : CmdWord, decode (.pins true w) = .ok (.reset w))

/-- Before the first RESET, RESET is the only step, from whatever the state holds. (States R201.) -/
def Obligations.OnlyResetBeforeFirstReset : Prop :=
  ∀ s : State, s.live = false →
    (∀ (inw : CmdWord) (rest : List Presented), s.input = .pins true inw :: rest →
      step s = .next { State.reset with cfg := s.cfg, input := rest }) ∧
    (rstPresented s = false → step s = .refused .beforeReset)

/-- PUSH is: on a full accumulator set OVF and drop_prefix(1); then append([b]); then SCAN. (States R162.) -/
def Obligations.PushAppendsThenScans : Prop :=
  ∀ (b : Byte) (s : State),
    (accCap s.cfg ≠ some s.acc.length → ∃ a t,
      exec (.append [b]) s = .next a ∧ exec .scan a = .next t ∧ exec (.push b) s = .next { t with ret := s.ret }) ∧
    (accCap s.cfg = some s.acc.length → ∃ d a t,
      exec (.dropPrefix 1) { s with ovf := true } = .next d ∧ exec (.append [b]) d = .next a ∧
      exec .scan a = .next t ∧ exec (.push b) s = .next { t with ret := s.ret })

/-- A PUSH that completes no frame changes ACC alone: trimmed to 7 bytes, or anchored at the header. (Rests on
44_host_ops.md R162; 41_frame_scanner.md R102; 41_frame_scanner.md R103; 41_frame_scanner.md R104.) -/
def Obligations.PushWithoutFrame : Prop :=
  ∀ (b : Byte) (s : State), accCap s.cfg ≠ some s.acc.length →
    let a := s.acc ++ [b]
    (findPat hdr a 0 = none →
      exec (.push b) s = .next { s with acc := if a.length > 8 then a.drop (a.length - 7) else a }) ∧
    (∀ h, findPat hdr a 0 = some h → findPat ftr a (h + 8) = none →
      exec (.push b) s = .next { s with acc := a.drop h }) ∧
    (∀ h f, findPat hdr a 0 = some h → findPat ftr a (h + 8) = some f → a.length < f + 8 →
      exec (.push b) s = .next { s with acc := a.drop h })

/-- The PUSH that brings the fourth trailer byte emits the frame's record and empties ACC. (Rests on 44_host_ops.md
R162; 41_frame_scanner.md R104; 41_frame_scanner.md R105; 20_memory.md R48.) -/
def Obligations.PushCompletesFrame : Prop :=
  ∀ (b : Byte) (s : State) (h f : Nat), accCap s.cfg ≠ some s.acc.length →
    findPat hdr (s.acc ++ [b]) 0 = some h → findPat ftr (s.acc ++ [b]) (h + 8) = some f →
    (s.acc ++ [b]).length = f + 8 →
    let r := demuxFrame s.cfg (parseFrame ((s.acc ++ [b]).drop h))
    exec (.push b) s =
      .next { s with acc := [], out := s.out ++ [r], presented := s.presented ++ [r] }

/-- A PUSH of a full accumulator sets OVF, drops the oldest byte and goes on as usual; at rest that byte belongs to
the header. (Rests on 44_host_ops.md R169; 92_eei_decisions.md D8.) -/
def Obligations.PushWhenFull : Prop :=
  ∀ (b : Byte) (s : State), accCap s.cfg = some s.acc.length →
    exec (.push b) s = exec (.push b) { s with acc := s.acc.drop 1, ovf := true } ∧
    (∃ t, exec (.push b) s = .next t ∧ t.ovf = true) ∧
    (atRest s.acc = true → s.acc.take 8 = hdr)

/-- From a state at rest a PUSH completes, emits at most one record, and leaves ACC empty when it emits one. (Rests
on 44_host_ops.md R167; 10_state.md R30.) -/
def Obligations.AtMostOneRecordPerPush : Prop :=
  ∀ (b : Byte) (s : State), atRest s.acc = true → ∃ t, exec (.push b) s = .next t ∧
    (t.out = s.out ∨
      ∃ f, f <:+ s.acc ++ [b] ∧ isCandidate f = true ∧ t.out = s.out ++ [recordOf s.cfg f] ∧ t.acc = [])

/-- The row HDR, run as step 1 of SCAN_PASS (the model's choice: log 7): the header's offset, or NoFrame(NEED_HEADER)
with ACC trimmed if longer than 8. (Rests on 41_frame_scanner.md R102.) -/
def Obligations.HeaderRowSearches : Prop :=
  ∀ s : State,
    (findPat hdr s.acc 0 = none →
      exec .hdr s = .next { s with
        acc := if s.acc.length > 8 then s.acc.drop (s.acc.length - 7) else s.acc
        ret := .pass (.noFrame .needHeader) }) ∧
    (∀ h, findPat hdr s.acc 0 = some h → exec .hdr s = .next { s with ret := .headerAt h })

/-- The row FTR with a header at h, run as the pass up to step 2 (the model's choice: log 7): the footer's offset, or
NoFrame(NEED_FOOTER) with ACC from h. (Rests on 41_frame_scanner.md R103.) -/
def Obligations.FooterRowSearches : Prop :=
  ∀ (s : State) (h : Nat), findPat hdr s.acc 0 = some h →
    (findPat ftr s.acc (h + 8) = none →
      exec .ftr s = .next { s with acc := s.acc.drop h, ret := .pass (.noFrame .needFooter) }) ∧
    (∀ f, findPat ftr s.acc (h + 8) = some f → exec .ftr s = .next { s with ret := .footerAt h f })

/-- The four outcomes of SCAN_PASS, each with its next state; FTR without a header ends as SCAN_PASS does (the
model's choice: log 7). (Rests on 41_frame_scanner.md R102; 41_frame_scanner.md R103; 41_frame_scanner.md R104.) -/
def Obligations.ScanPassOutcomes : Prop :=
  ∀ s : State,
    (findPat hdr s.acc 0 = none →
      let t : State := { s with
        acc := if s.acc.length > 8 then s.acc.drop (s.acc.length - 7) else s.acc
        ret := .pass (.noFrame .needHeader) }
      exec .scanPass s = .next t ∧ exec .ftr s = .next t) ∧
    (∀ h, findPat hdr s.acc 0 = some h → findPat ftr s.acc (h + 8) = none →
      exec .scanPass s = .next { s with acc := s.acc.drop h, ret := .pass (.noFrame .needFooter) }) ∧
    (∀ h f, findPat hdr s.acc 0 = some h → findPat ftr s.acc (h + 8) = some f → s.acc.length < f + 8 →
      exec .scanPass s = .next { s with acc := s.acc.drop h, ret := .pass (.noFrame .needTrailer) }) ∧
    (∀ h f, findPat hdr s.acc 0 = some h → findPat ftr s.acc (h + 8) = some f → f + 8 ≤ s.acc.length →
      exec .scanPass s =
        .next { s with acc := s.acc.drop (f + 8), ret := .pass (.frame (slice s.acc h (f + 8))) })

/-- Every frame SCAN_PASS extracts begins with HDR, has its first FTR 8 bytes before its end, has at least 16 bytes
and stood in ACC. (Rests on 41_frame_scanner.md R104; 41_frame_scanner.md R111; 40_accumulator.md R95.) -/
def Obligations.ExtractedFrameIsCandidate : Prop :=
  ∀ (s t : State) (f : List Byte), exec .scanPass s = .next t → t.ret = .pass (.frame f) →
    f <:+: s.acc ∧ 16 ≤ f.length ∧ f.take 8 = hdr ∧ slice f (f.length - 8) (f.length - 4) = ftr ∧
    findPat ftr f 8 = some (f.length - 8) ∧ isCandidate f = true

/-- The first footer ends the frame whatever the length field says; what follows the trailer stays in ACC. (Rests on
41_frame_scanner.md R108; 30_encoding.md R68; 30_encoding.md R70.) -/
def Obligations.FirstFooterEndsFrame : Prop :=
  ∀ (s : State) (payload rest : List Byte) (c : Checksum), framed payload = true →
    s.acc = frameBytes payload c ++ rest →
    exec .scanPass s = .next { s with acc := rest, ret := .pass (.frame (frameBytes payload c)) }

/-- SCAN is: a pass; for a frame, emit DEMUX(PARSE(F)) and scan again; for no frame, end with the reason on ST_PHASE.
(States R105.) -/
def Obligations.ScanRepeatsPasses : Prop :=
  ∀ s t : State, exec .scanPass s = .next t →
    (∀ f, t.ret = .pass (.frame f) → ∃ e,
      exec (.emit (demuxFrame t.cfg (parseFrame f))) t = .next e ∧ exec .scan s = exec .scan e) ∧
    (∀ why, t.ret = .pass (.noFrame why) →
      exec .scan s = .next { t with ret := .scanned why } ∧ stPhase t = why)

/-- From any state SCAN completes in one of the three rest shapes, with ST_PHASE the reason of its last pass. (Rests
on 10_state.md R28; 10_state.md R30; 41_frame_scanner.md R107; 41_frame_scanner.md R113.) -/
def Obligations.ScanEndsAtRest : Prop :=
  ∀ s : State, ∃ t, exec .scan s = .next t ∧ t.ret = .scanned (stPhase t) ∧ atRest t.acc = true ∧
    s.out <+: t.out ∧
    t = { s with acc := t.acc, out := t.out, presented := t.presented, ret := t.ret }

/-- SCAN never lengthens ACC, and a second SCAN straight after a first changes nothing and emits nothing (R112 marks
this derived). (Rests on 41_frame_scanner.md R112.) -/
def Obligations.ScanIsIdempotent : Prop :=
  ∀ s t : State, exec .scan s = .next t → t.acc.length ≤ s.acc.length ∧ exec .scan t = .next t

/-- SCAN ends within |ACC| div 16 + 1 passes (the loop's bound: log 17): allowing more changes nothing, and each
extraction shortens ACC by 16 or more. (Rests on 41_frame_scanner.md R106.) -/
def Obligations.ScanPassesSuffice : Prop :=
  (∀ (s : State) (n : Nat), s.acc.length / 16 + 1 ≤ n → scanLoop n s = scanAll s) ∧
  (∀ (s t : State) (f : List Byte), exec .scanPass s = .next t → t.ret = .pass (.frame f) →
    16 ≤ f.length ∧ t.acc.length + f.length ≤ s.acc.length)

/-- FIND returns the least offset from the start on at which the pattern stands wholly inside the sequence, or none.
(States R101.) -/
def Obligations.FindReturnsLeastOffset : Prop :=
  ∀ (pat sq : List Byte) (start : Nat) (s : State), pat ≠ [] → ∃ o,
    exec (.find pat sq start) s = .next { s with ret := .offset o } ∧
    ∀ i, o = some i ↔
      (start ≤ i ∧ i + pat.length ≤ sq.length ∧ slice sq i (i + pat.length) = pat ∧
        ∀ j, start ≤ j → j < i → slice sq j (j + pat.length) ≠ pat)

/-- Two occurrences of HDR in a byte sequence never overlap, and no occurrence of FTR overlaps one of HDR. (Rests on
30_encoding.md R65.) -/
def Obligations.HeadersNeverOverlap : Prop :=
  ∀ (sq : List Byte) (i j : Nat), slice sq i (i + 8) = hdr →
    (slice sq j (j + 8) = hdr → i < j → i + 8 ≤ j) ∧
    (slice sq j (j + 4) = ftr → j + 4 ≤ i ∨ i + 8 ≤ j)

/-- append(c) puts c at the tail, keeps every offset, and does nothing else. (States R90.) -/
def Obligations.AppendWritesTheTail : Prop :=
  ∀ (c : List Byte) (s : State), ∃ t, exec (.append c) s = .next t ∧ t = { s with acc := s.acc ++ c } ∧
    (∀ a, a < s.acc.length → readByte t a = readByte s a) ∧ exec (.append []) s = .next s

/-- consume_prefix(n) removes and returns the first n bytes; every remaining byte's offset falls by n. (States R91.) -/
def Obligations.ConsumeReturnsPrefix : Prop :=
  ∀ (n : Nat) (s : State), n ≤ s.acc.length →
    (∃ t, exec (.consumePrefix n) s = .next t ∧
      t = { s with acc := slice s.acc n s.acc.length, ret := .bytes (slice s.acc 0 n) } ∧
      ∀ a, readByte t a = readByte s (a + n)) ∧
    exec (.consumePrefix 0) s = .next { s with ret := .bytes [] } ∧
    exec (.consumePrefix s.acc.length) s = .next { s with acc := [], ret := .bytes s.acc }

/-- drop_prefix(n) discards the first n bytes: consume_prefix(n) with the result thrown away. (States R92.) -/
def Obligations.DropDiscardsPrefix : Prop :=
  ∀ (n : Nat) (s : State), n ≤ s.acc.length →
    (∃ t u, exec (.dropPrefix n) s = .next t ∧ t = { s with acc := slice s.acc n s.acc.length } ∧
      exec (.consumePrefix n) s = .next u ∧ t = { u with ret := s.ret }) ∧
    exec (.dropPrefix 0) s = .next s ∧
    exec (.dropPrefix s.acc.length) s = .next { s with acc := [] }

/-- Removing more bytes than ACC holds empties it: the model's choice (log 9), which no step of the block reaches.
(Rests on 40_accumulator.md R94; 93_implementation_defined.md U13.) -/
def Obligations.RemovalBeyondTheEndIsClamped : Prop :=
  ∀ (n : Nat) (s : State), s.acc.length < n →
    exec (.consumePrefix n) s = .next { s with acc := [], ret := .bytes s.acc } ∧
    exec (.dropPrefix n) s = .next { s with acc := [] }

/-- Every operation leaves ACC a suffix of the old ACC followed by the bytes it brought: append at the tail, remove a
prefix. (Rests on 10_state.md R21; 40_accumulator.md R95.) -/
def Obligations.AccIsStreamSuffix : Prop :=
  ∀ (i : Instr) (s t : State), exec i s = .next t → t.acc <:+ s.acc ++ arrived i

/-- BE16 and BE32 take the byte at the lower offset as the more significant, undo enc16 and enc32, and MemRead reads
so from ACC. (Rests on 20_memory.md R42; 30_encoding.md R69; 30_encoding.md R77.) -/
def Obligations.BigEndianFields : Prop :=
  (∀ a b : Byte, (be16 [a, b]).toNat = a.toNat * 256 + b.toNat) ∧
  (∀ a b c d : Byte,
    (be32 [a, b, c, d]).toNat = a.toNat * 2 ^ 24 + b.toNat * 2 ^ 16 + c.toNat * 2 ^ 8 + d.toNat) ∧
  (∀ v : BitVec 16, be16 (enc16 v) = v) ∧ (∀ v : BitVec 32, be32 (enc32 v) = v) ∧
  (∀ (s : State) (a : Nat), a + 2 ≤ s.acc.length →
    memRead s a 2 = some (be16 (slice s.acc a (a + 2))).toNat) ∧
  (∀ (s : State) (a : Nat), a + 4 ≤ s.acc.length →
    memRead s a 4 = some (be32 (slice s.acc a (a + 4))).toNat) ∧
  (∀ (s : State) (a n : Nat), s.acc.length < a + n → memRead s a n = none)

/-- PARSE of any candidate frame: RAW, RAW_LEN and the trailer always; every header field, clipped, summed and
compared, or none. (States R121; R122.) -/
def Obligations.ParseGivesFrameFields : Prop :=
  (∀ (payload : List Byte) (c : Checksum) (s : State), payload.length < 4 →
    exec (.parse (frameBytes payload c)) s =
      .next { s with ret := .parsed ⟨frameBytes payload c, payload.length + 16, c, none⟩ }) ∧
  (∀ (m : Byte) (f : FrameRest) (s : State),
    exec (.parse (restFrame m f)) s =
      .next { s with ret := .parsed ⟨restFrame m f, f.body.length + 20, f.csum,
        some { len := f.len, dev := f.dev, mode := m, avail := f.body.length
               ulen := BitVec.ofNat 16 (min f.len.toNat f.body.length)
               incomplete := decide (f.body.length < f.len.toNat)
               csumCalc := checksum (f.body.take f.len.toNat)
               valid := decide (checksum (f.body.take f.len.toNat) = f.csum) }⟩ })

/-- CSUM(U) is the sum of the bytes modulo 2^32, 0 for no bytes, and does not depend on their order. (States R125.) -/
def Obligations.ChecksumIsByteSum : Prop :=
  ∀ (u : List Byte) (s : State), ∃ c : Checksum, exec (.csum u) s = .next { s with ret := .sum c } ∧
    c.toNat = (u.map BitVec.toNat).sum % 2 ^ 32 ∧ (u = [] → c = 0#32) ∧
    ∀ v : List Byte, v.Perm u → exec (.csum v) s = exec (.csum u) s

/-- The checksum of a frame's useful data never wraps and never exceeds 0xFEFF01, so no trailer above that is ever
valid. (Rests on 42_checksum_verifier.md R129.) -/
def Obligations.ChecksumNeverReachesTopByte : Prop :=
  (∀ u : List Byte, u.length ≤ 65535 →
    (checksum u).toNat = (u.map BitVec.toNat).sum ∧ (checksum u).toNat ≤ 16711425) ∧
  (∀ (f : List Byte) (h : HeaderFields), (parseFrame f).fields = some h →
    h.csumCalc.toNat ≤ 16711425 ∧ h.csumCalc.extractLsb' 24 8 = 0#8 ∧
    (h.valid = true → (parseFrame f).csumRx.toNat ≤ 16711425))

/-- VERIFY is equality of the two 32-bit numbers, the same as equality of their big-endian bytes. (States R127.) -/
def Obligations.VerifyComparesAllBits : Prop :=
  ∀ (a b : Checksum) (s : State), ∃ v : Bool, exec (.verify a b) s = .next { s with ret := .verdict v } ∧
    (v = true ↔ a = b) ∧ (v = true ↔ enc32 a = enc32 b)

/-- Changing the trailer of a valid frame keeps it a candidate frame with the same fields but VALID = 0. (Rests on
42_checksum_verifier.md R130.) -/
def Obligations.TrailerChangeInvalidates : Prop :=
  ∀ (m : Byte) (f : FrameRest) (c : Checksum), framed (restPayload m f) = true → restValid f = true → c ≠ f.csum →
    isCandidate (restFrame m { f with csum := c }) = true ∧
    ∃ h : HeaderFields, (parseFrame (restFrame m f)).fields = some h ∧ h.valid = true ∧
      (parseFrame (restFrame m { f with csum := c })).fields = some { h with valid := false }

/-- DEMUX: no mode byte to DATA; mode 0x00 to CS with its command-status result; any other mode to DATA with
MODE_KNOWN. (States R141.) -/
def Obligations.DemuxRoutesByMode : Prop :=
  ∀ (p : Parsed) (s : State), ∃ r, exec (.demux p) s = .next { s with ret := .record r } ∧ r.parsed = p ∧
    (p.fields = none → r.port = .data ∧ r.modeKnown = none ∧ r.cs = .absent) ∧
    (∀ f, p.fields = some f →
      (f.mode = 0x00#8 → r.port = .cs ∧ r.modeKnown = some true ∧
        exec (.csDecode p) s = .next { s with ret := .status r.cs }) ∧
      (f.mode ≠ 0x00#8 → r.port = .data ∧ r.cs = .absent ∧
        (r.modeKnown = some true ↔ f.mode ∈ [0x01#8, 0x02#8, 0x03#8, 0x04#8, 0x05#8, 0x07#8]) ∧
        r.modeKnown ≠ none))

/-- CS_DECODE consults the table only for a valid frame: SKIPPED if invalid, else KNOWN or UNKNOWN as CS_MATCH
answers. (States R142.) -/
def Obligations.StatusDecodeGate : Prop :=
  (∀ (p : Parsed) (f : HeaderFields) (s : State), p.fields = some f → f.mode = 0x00#8 →
    (f.valid = false → exec (.csDecode p) s = .next { s with ret := .status .skipped }) ∧
    (f.valid = true → ∃ m,
      exec (.csMatch (slice p.raw 12 (12 + f.ulen.toNat))) s = .next { s with ret := .entry m } ∧
      (m = none → exec (.csDecode p) s = .next { s with ret := .status .unknown }) ∧
      (∀ op ph, m = some (op, ph) → exec (.csDecode p) s = .next { s with ret := .status (.known op ph) }))) ∧
  (∀ (c : Params) (p : Parsed), (csEvent (demuxFrame c p)).valid = true →
    (demuxFrame c p).port = .cs ∧ ∃ f, p.fields = some f ∧ f.mode = 0x00#8 ∧ f.valid = true)

/-- CS_MATCH answers (op, phase) exactly when CS_TABLE has the entry (U, op, phase), by equality of whole byte
strings. (States R143.) -/
def Obligations.MatchIsTableLookup : Prop :=
  ∀ (u : List Byte) (s : State), tableDistinct s.cfg = true → ∃ m,
    exec (.csMatch u) s = .next { s with ret := .entry m } ∧
    ∀ op ph, m = some (op, ph) ↔ (⟨u, op, ph⟩ : CsEntry) ∈ csTable s.cfg

/-- Whatever else CS_TABLE holds, the known vector is (thermistor, complete); the codes of CS_OP, CS_PHASE, CS_KIND,
PORT and ST_PHASE on the wires. (Rests on 30_encoding.md R73; 30_encoding.md R74; 43_cmdstatus_demux.md R145;
10_state.md R27; 41_frame_scanner.md R107.) -/
def Obligations.KnownVectorIsThermistorComplete : Prop :=
  (∀ s : State, exec (.csMatch [0x00#8, 0x02#8, 0x01#8, 0x00#8, 0x00#8, 0x00#8, 0x02#8, 0x00#8]) s =
      .next { s with ret := .entry (some (.thermistor, .complete)) }) ∧
  (csOpCode .thermistor = 0#2 ∧ csOpCode .platinumResistance = 1#2 ∧ csOpCode .radiative = 2#2 ∧
    csOpCode .workflow1 = 3#2) ∧
  (csPhaseCode .start = 0#1 ∧ csPhaseCode .complete = 1#1) ∧
  (csKindCode .absent = 0#2 ∧ csKindCode .skipped = 1#2 ∧ csKindCode .unknown = 2#2 ∧
    ∀ op ph, csKindCode (.known op ph) = 3#2) ∧
  (portCode .data = 0#1 ∧ portCode .cs = 1#1) ∧
  (phaseCode .needHeader = 0#2 ∧ phaseCode .needFooter = 1#2 ∧ phaseCode .needTrailer = 2#2 ∧
    ∀ why, phaseCode why ≠ 3#2)

/-- CS_EVT is valid exactly for a KNOWN record, with its operation and phase, and stands beside each CS record of the
step (presented: the model's, log 5). (Rests on 30_encoding.md R75; 43_cmdstatus_demux.md R145; 43_cmdstatus_demux.md
R148.) -/
def Obligations.EventRaisedForKnownOnly : Prop :=
  (∀ r : Record,
    ((csEvent r).valid = true ↔ csKindCode r.cs = 3#2) ∧
    (∀ op ph, r.cs = .known op ph → csEvent r = ⟨true, some op, some ph⟩) ∧
    ((csEvent r).valid = false → csEvent r = ⟨false, none, none⟩)) ∧
  (∀ (r : Record) (s : State), ∃ t, exec (.emit r) s = .next t ∧
    presentedEvents t = presentedEvents s ++ (if r.port = .cs then [csEvent r] else [])) ∧
  (∀ s t : State, rstPresented s = false → step s = .next t → ∃ rs, t.out = s.out ++ rs ∧
    presentedEvents t = (rs.filter fun r => r.port == .cs).map csEvent)

/-- EMIT adds the record at the end of OUT, presents it, and changes nothing else. (Rests on 43_cmdstatus_demux.md
R148.) -/
def Obligations.EmitExtendsTrace : Prop :=
  ∀ (r : Record) (s : State),
    exec (.emit r) s = .next { s with out := s.out ++ [r], presented := s.presented ++ [r] }

/-- Each parse-mode row delivers the record DEMUX(PARSE(F)) of its frame, on the row's port with its MODE_KNOWN
(running a row alone: the model's choice, log 7). (Rests on 43_cmdstatus_demux.md R141; 43_cmdstatus_demux.md R146;
30_encoding.md R71; 30_encoding.md R72.) -/
def Obligations.ModeRowsDeliver : Prop :=
  ∀ (f : FrameRest) (s : State),
    (∀ x ∈ [(Instr.mode01Adc24 f, 0x01#8), (Instr.mode02Adc24 f, 0x02#8), (Instr.mode03Struct f, 0x03#8),
        (Instr.mode04Adc12 f, 0x04#8), (Instr.mode05Adc12 f, 0x05#8), (Instr.mode07Adc12 f, 0x07#8)],
      let r : Record := ⟨.data, parseFrame (restFrame x.2 f), some true, .absent⟩
      exec x.1 s = .next { s with out := s.out ++ [r], presented := s.presented ++ [r] } ∧
      r = recordOf s.cfg (restFrame x.2 f) ∧ hdrOk r.parsed = true) ∧
    (∀ m, modeKnownFlag m = false →
      let r : Record := ⟨.data, parseFrame (restFrame m f), some false, .absent⟩
      exec (.modeUnknown m f) s = .next { s with out := s.out ++ [r], presented := s.presented ++ [r] } ∧
      r = recordOf s.cfg (restFrame m f) ∧ hdrOk r.parsed = true) ∧
    (let r := recordOf s.cfg (restFrame 0x00#8 f)
     exec (.mode00CmdStatus f) s = .next { s with out := s.out ++ [r], presented := s.presented ++ [r] } ∧
      r.port = .cs ∧ r.modeKnown = some true ∧ hdrOk r.parsed = true)

/-- Each command-status row delivers the record DEMUX(PARSE(F)) of its frame, with its CS_KIND and event (a row run
alone: log 7; the open table: log 14). (Rests on 43_cmdstatus_demux.md R142; 43_cmdstatus_demux.md R143;
43_cmdstatus_demux.md R144; 43_cmdstatus_demux.md R145.) -/
def Obligations.CommandStatusRowsDeliver : Prop :=
  ∀ (f : FrameRest) (s : State),
    let r := recordOf s.cfg (restFrame 0x00#8 f)
    (wellFormed (.csThermistorComplete f) = true →
      exec (.csThermistorComplete f) s = .next { s with out := s.out ++ [r], presented := s.presented ++ [r] } ∧
      r.cs = .known .thermistor .complete ∧ csEvent r = ⟨true, some .thermistor, some .complete⟩ ∧ r.port = .cs) ∧
    (wellFormed (.csSkipped f) = true →
      exec (.csSkipped f) s = .next { s with out := s.out ++ [r], presented := s.presented ++ [r] } ∧
      r.cs = .skipped ∧ (csEvent r).valid = false ∧ r.port = .cs) ∧
    (wellFormed (.csUnknown f) = true →
      exec (.csUnknown f) s = .next { s with out := s.out ++ [r], presented := s.presented ++ [r] } ∧
      r.port = .cs ∧
      ((∀ e ∈ csTable s.cfg, e.vector ≠ restUseful f) → r.cs = .unknown ∧ (csEvent r).valid = false))

/-- FRAME as an instruction handles its candidate frame as the scanner does: the record DEMUX(PARSE(F)) is emitted.
(Rests on 41_frame_scanner.md R105; 42_checksum_verifier.md R121; 30_encoding.md R64.) -/
def Obligations.FrameRowEmitsItsRecord : Prop :=
  ∀ (payload : List Byte) (c : Checksum) (s : State),
    let r := demuxFrame s.cfg (parseFrame (frameBytes payload c))
    exec (.frame payload c) s = .next { s with out := s.out ++ [r], presented := s.presented ++ [r] }

/-- The per-record conditions: E8 excludes E4 to E7, and E7 excludes E4 and E6. (Rests on 60_exceptions.md R192;
60_exceptions.md R181.) -/
def Obligations.ConditionsExclude : Prop :=
  ∀ (c : Params) (f : List Byte),
    let es := recordConditions (recordOf c f)
    (.e8Malformed ∈ es → .e4ChecksumMismatch ∉ es ∧ .e5DataIncomplete ∉ es ∧ .e6UnknownMode ∉ es ∧ .e7UnknownCommand ∉ es) ∧
    (.e7UnknownCommand ∈ es → .e4ChecksumMismatch ∉ es ∧ .e6UnknownMode ∉ es)

/-- FIND, PARSE, CSUM, VERIFY, DEMUX, CS_DECODE and CS_MATCH depend on their operands and the constants alone and
write nothing. (States R149.) -/
def Obligations.PureOperationsIgnoreState : Prop :=
  ∀ i : Instr, isPure i = true → ∀ s u : State, s.cfg = u.cfg → ∃ r,
    exec i s = .next { s with ret := r } ∧ exec i u = .next { u with ret := r }

/-- OVF is set exactly by a PUSH that finds ACC full, cleared exactly by CLEAR and RESET, sticky, and read by no
operation. (States R25.) -/
def Obligations.OvfWrittenAsStated : Prop :=
  (∀ (b : Byte) (s t : State), exec (.push b) s = .next t →
    (t.ovf = true ↔ s.ovf = true ∨ accCap s.cfg = some s.acc.length)) ∧
  (∀ (d : Byte) (s t : State), exec (.clear d) s = .next t → t.ovf = false) ∧
  (∀ (w : CmdWord) (s t : State), exec (.reset w) s = .next t → t.ovf = false) ∧
  (∀ (c : List Byte) (s t : State), accCap s.cfg = none → exec (.appendChunk c) s = .next t → t.ovf = s.ovf) ∧
  (∀ (i : Instr) (s t : State), (∀ b, i ≠ .push b) → (∀ c, i ≠ .appendChunk c) → (∀ d, i ≠ .clear d) →
    (∀ w, i ≠ .reset w) → exec i s = .next t → t.ovf = s.ovf) ∧
  (∀ (i : Instr) (s t : State) (o : Bool), exec i s = .next t →
    ∃ o', exec i { s with ovf := o } = .next { t with ovf := o' }) ∧
  (∀ s : State, stOvf s = s.ovf)

/-- No operation but RESET alters or withdraws a record: OUT only grows at its end. (Rests on 43_cmdstatus_demux.md
R148; 10_state.md R33.) -/
def Obligations.OutOnlyGrows : Prop :=
  ∀ (i : Instr) (s t : State), (∀ w, i ≠ .reset w) → exec i s = .next t → s.out <+: t.out

/-- The records presented after a step are exactly those the step emitted; a CLEAR or RESET step presents none.
(Rests on 60_exceptions.md R191; 70_reset_and_hazards.md R213; 10_state.md R34.) -/
def Obligations.PresentedIsThisStep : Prop :=
  (∀ s t : State, rstPresented s = false → step s = .next t → t.out = s.out ++ t.presented) ∧
  (∀ (s t : State) (i : Instr), decode (fetched s) = .ok i → ((∃ d, i = .clear d) ∨ ∃ w, i = .reset w) →
    step s = .next t → t.presented = [])

/-- No operation writes the parameters, and only RESET makes the state specified. (Rests on 10_state.md R33;
10_state.md R34; 70_reset_and_hazards.md R203.) -/
def Obligations.ParametersNeverWritten : Prop :=
  (∀ (i : Instr) (s t : State), exec i s = .next t →
    t.cfg = s.cfg ∧ t.input = s.input ∧ ((∀ w, i ≠ .reset w) → t.live = s.live)) ∧
  (∀ s t : State, step s = .next t → t.cfg = s.cfg)

/-- Every step keeps the invariant: ACC at rest and within ACC_CAP, OVF 0 without a capacity, every record a function
of its RAW. (Rests on 10_state.md R20; 10_state.md R21; 10_state.md R30; 30_encoding.md R73; 43_cmdstatus_demux.md
R149.) -/
def Obligations.StepKeepsInvariant : Prop :=
  ∀ s t : State, invariant s = true → step s = .next t → invariant t = true

/-- The state after reset meets the invariant, whatever the open parameters are. (Rests on 10_state.md R30;
10_state.md R34; 30_encoding.md R73.) -/
def Obligations.ResetMeetsInvariant : Prop :=
  invariant State.reset = true

/-- APPEND c is append(c) then SCAN without a capacity, and with one the run of PUSH (the model's choice: log 10); it
completes and never clears OVF. (Rests on 44_host_ops.md R166; 10_state.md R25.) -/
def Obligations.ChunkMeaning : Prop :=
  ∀ (c : List Byte) (s : State),
    (accCap s.cfg = none → ∃ a t, exec (.append c) s = .next a ∧ exec .scan a = .next t ∧
      exec (.appendChunk c) s = .next { t with ret := s.ret }) ∧
    (∀ n, accCap s.cfg = some n → exec (.appendChunk c) s = execAll (c.map Instr.push) s) ∧
    ∃ t, exec (.appendChunk c) s = .next t ∧ (s.ovf = true → t.ovf = true)

/-- The chunk law: however a stream is cut into APPENDs, and byte by byte with PUSH, the same records come out in the
same order. (Rests on 20_memory.md R53; 44_host_ops.md R166; 70_reset_and_hazards.md R212.) -/
def Obligations.ChunkBoundaryIndependence : Prop :=
  (∀ (s : State) (cs : List (List Byte)), accCap s.cfg = none → atRest s.acc = true → ∃ a b p,
    execAll (cs.map Instr.appendChunk) s = .next a ∧
    exec (.appendChunk cs.flatten) s = .next b ∧
    execAll (cs.flatten.map Instr.push) s = .next p ∧
    a.out = b.out ∧ p.out = b.out ∧ stPhase a = stPhase b ∧ stPhase p = stPhase b ∧
    (stPhase b ≠ .needHeader → a.acc = b.acc ∧ p.acc = b.acc)) ∧
  (∃ (s b p : State) (c : List Byte), accCap s.cfg = none ∧ s.acc = [] ∧ c.length = 10 ∧ findPat hdr c 0 = none ∧
    exec (.appendChunk c) s = .next b ∧ execAll (c.map Instr.push) s = .next p ∧
    b.acc = c.drop 3 ∧ p.acc = c.drop 2)

/-- Round trip: pushing FRAME(dev, mode, u) emits exactly one record, at the last byte, with every field as encoded
and VALID = 1. (Rests on 42_checksum_verifier.md R132.) -/
def Obligations.WellFormedFrameRoundTrip : Prop :=
  ∀ (s : State) (dev mode : Byte) (u : List Byte), u.length ≤ 65535 →
    framed (restPayload mode (truthfulRest dev u)) = true →
    atRest s.acc = true → stPhase s = .needHeader → (∀ n, accCap s.cfg = some n → 20 + u.length ≤ n) →
    let f := frameOf dev mode u
    let r := recordOf s.cfg f
    execAll (f.map Instr.push) s =
        .next { s with acc := [], out := s.out ++ [r], presented := s.presented ++ [r] } ∧
    r.parsed = ⟨f, u.length + 20, checksum u,
      some { len := BitVec.ofNat 16 u.length, dev := dev, mode := mode, avail := u.length
             ulen := BitVec.ofNat 16 u.length, incomplete := false, csumCalc := checksum u, valid := true }⟩ ∧
    usefulData r.parsed = some u ∧
    ∀ k, k < f.length → ∃ t, execAll ((f.take k).map Instr.push) s = .next t ∧ t.out = s.out

/-- A chunk of any number of frames back to back emits their records, one each, in the order of their bytes. (Rests
on 20_memory.md R48; 41_frame_scanner.md R105; 44_host_ops.md R166.) -/
def Obligations.FramesOfAChunkInOrder : Prop :=
  ∀ (s : State) (fs : List (List Byte × Checksum)), accCap s.cfg = none → s.acc = [] →
    (∀ x ∈ fs, framed x.1 = true) →
    let rs := fs.map fun x => recordOf s.cfg (frameBytes x.1 x.2)
    exec (.appendChunk (fs.map fun x => frameBytes x.1 x.2).flatten) s =
      .next { s with out := s.out ++ rs, presented := s.presented ++ rs }

/-- The variant of the record of any bytes is the one whose condition R150 names, with the port, CS_KIND and event of
that variant. (Rests on 43_cmdstatus_demux.md R150; 43_cmdstatus_demux.md R141; 43_cmdstatus_demux.md R142;
43_cmdstatus_demux.md R143; 43_cmdstatus_demux.md R144; 43_cmdstatus_demux.md R147.) -/
def Obligations.RecordVariantAsCondition : Prop :=
  ∀ (c : Params) (f : List Byte), tableDistinct c = true →
    let r := recordOf c f
    (variantOf r = .malformed ↔ hdrOk r.parsed = false) ∧
    (∀ op ph, variantOf r = .cmdStatusKnown op ph ↔ ∃ h, r.parsed.fields = some h ∧ h.mode = 0x00#8 ∧
      h.valid = true ∧ ∃ u, usefulData r.parsed = some u ∧ (⟨u, op, ph⟩ : CsEntry) ∈ csTable c) ∧
    (variantOf r = .cmdStatusUnknown ↔ ∃ h, r.parsed.fields = some h ∧ h.mode = 0x00#8 ∧
      h.valid = true ∧ ∃ u, usefulData r.parsed = some u ∧ ∀ e ∈ csTable c, e.vector ≠ u) ∧
    (variantOf r = .cmdStatusInvalid ↔ ∃ h, r.parsed.fields = some h ∧ h.mode = 0x00#8 ∧ h.valid = false) ∧
    (variantOf r = .data ↔ ∃ h, r.parsed.fields = some h ∧ h.mode ≠ 0x00#8) ∧
    (r.port = .data ↔ variantOf r = .malformed ∨ variantOf r = .data) ∧
    ((csEvent r).valid = true ↔ ∃ op ph, variantOf r = .cmdStatusKnown op ph) ∧
    (variantOf r = .cmdStatusInvalid ↔ r.cs = .skipped)
end

