-- ==== Sys2Proof/Laws/Operands.lean ====
section
/-! SUPPORT. What the operand forms can do: `FIND` finds the first place where the pattern begins what is left; slices and
prefixes; the vectors of `CS_TABLE`. -/

namespace Sys2Proof.Machine

open Sys2Proof.Config

/-- The pattern stands at `i` exactly when it begins what is left from `i` on. -/
theorem slice_eq_iff_prefix (pat sq : List Byte) (i : Nat) :
    slice sq i (i + pat.length) = pat ↔ pat <+: sq.drop i := by
  unfold slice
  rw [List.drop_take, Nat.add_sub_cancel_left]
  constructor
  · intro h; rw [← h]; exact List.take_prefix _ _
  · rintro ⟨t, ht⟩; rw [← ht, List.take_left']
    rfl

theorem findFrom_eq_some (pat : List Byte) (hp : pat ≠ []) (sq : List Byte) (at0 i : Nat) :
    findFrom pat at0 sq = some i ↔
      ∃ k, i = at0 + k ∧ pat <+: sq.drop k ∧ ∀ j, j < k → ¬ pat <+: sq.drop j := by
  induction sq generalizing at0 with
  | nil => simp [findFrom, hp]
  | cons b t ih =>
    unfold findFrom
    by_cases hb : pat <+: b :: t
    · rw [if_pos (List.isPrefixOf_iff_prefix.mpr hb)]
      constructor
      · intro h
        exact ⟨0, by simpa using h.symm, by simpa using hb, by omega⟩
      · rintro ⟨k, rfl, -, hmin⟩
        rcases Nat.eq_zero_or_pos k with rfl | hk
        · rfl
        · exact absurd (by simpa using hb) (hmin 0 hk)
    · rw [if_neg (fun h => hb (List.isPrefixOf_iff_prefix.mp h)), ih]
      constructor
      · rintro ⟨k, rfl, hk, hmin⟩
        refine ⟨k + 1, by omega, by simpa using hk, ?_⟩
        intro j hj
        cases j with
        | zero => simpa using hb
        | succ j => simpa using hmin j (by omega)
      · rintro ⟨k, rfl, hk, hmin⟩
        cases k with
        | zero => exact absurd (by simpa using hk) hb
        | succ k =>
          exact ⟨k, by omega, by simpa using hk, fun j hj => by simpa using hmin (j + 1) (by omega)⟩

/-- `FIND` answers `i` exactly when the pattern stands at `i` and at no lower offset from the start on (R101). -/
theorem findPat_eq_some {pat sq : List Byte} {start i : Nat} (hp : pat ≠ []) :
    findPat pat sq start = some i ↔
      start ≤ i ∧ pat <+: sq.drop i ∧ ∀ j, start ≤ j → j < i → ¬ pat <+: sq.drop j := by
  unfold findPat
  rw [findFrom_eq_some pat hp]
  constructor
  · rintro ⟨k, rfl, hk, hmin⟩
    rw [List.drop_drop] at hk
    refine ⟨by omega, hk, fun j h1 h2 => ?_⟩
    have := hmin (j - start) (by omega)
    rwa [List.drop_drop, show start + (j - start) = j by omega] at this
  · rintro ⟨h1, h2, hmin⟩
    refine ⟨i - start, by omega, ?_, fun j hj => ?_⟩
    · rwa [List.drop_drop, show start + (i - start) = i by omega]
    · rw [List.drop_drop]; exact hmin _ (by omega) (by omega)

/-- `FIND` answers nothing exactly when the pattern stands nowhere from the start on (R101). -/
theorem findPat_eq_none {pat sq : List Byte} {start : Nat} (hp : pat ≠ []) :
    findPat pat sq start = none ↔ ∀ j, start ≤ j → ¬ pat <+: sq.drop j := by
  constructor
  · intro hnone j hj hpre
    let P := fun j => start ≤ j ∧ pat <+: sq.drop j
    classical
    have hex : ∃ j, P j := ⟨j, hj, hpre⟩
    have hs : findPat pat sq start = some (Nat.find hex) := by
      rw [findPat_eq_some hp]
      refine ⟨(Nat.find_spec hex).1, (Nat.find_spec hex).2, fun j h1 h2 h3 => ?_⟩
      exact Nat.find_min hex h2 ⟨h1, h3⟩
    rw [hnone] at hs; cases hs
  · intro h
    cases hf : findPat pat sq start with
    | none => rfl
    | some i =>
      have := (findPat_eq_some hp).mp hf
      exact absurd this.2.1 (h i this.1)

/-- A match lies wholly inside the sequence (R101). -/
theorem findPat_le_length {pat sq : List Byte} {start i : Nat} (hp : pat ≠ []) (h : findPat pat sq start = some i) :
    start ≤ i ∧ i + pat.length ≤ sq.length := by
  obtain ⟨h1, h2, -⟩ := (findPat_eq_some hp).mp h
  have := h2.length_le
  rw [List.length_drop] at this
  have : 0 < pat.length := List.length_pos_iff.mpr hp
  omega

theorem hdr_ne_nil : hdr ≠ [] := by decide
theorem ftr_ne_nil : ftr ≠ [] := by decide
@[simp] theorem hdr_length : hdr.length = 8 := rfl
@[simp] theorem ftr_length : ftr.length = 4 := rfl
@[simp] theorem enc32_length (v : BitVec 32) : (enc32 v).length = 4 := rfl
@[simp] theorem enc16_length (v : BitVec 16) : (enc16 v).length = 2 := rfl

@[simp] theorem frameBytes_length (payload : List Byte) (c : Checksum) :
    (frameBytes payload c).length = payload.length + 16 := by
  simp [frameBytes]; omega

@[simp] theorem restPayload_length (m : Byte) (f : FrameRest) : (restPayload m f).length = f.body.length + 4 := by
  simp [restPayload]; omega

/-- The payload of a frame is what stands between header and footer. -/
theorem slice_frameBytes_payload (payload : List Byte) (c : Checksum) :
    slice (frameBytes payload c) 8 ((frameBytes payload c).length - 8) = payload := by
  have h : (frameBytes payload c).length - 8 = (hdr ++ payload).length := by simp; omega
  unfold slice
  rw [h]
  unfold frameBytes
  rw [List.append_assoc (hdr ++ payload), List.take_left' rfl]
  exact List.drop_left' rfl

/-- The trailer of a frame is its last 4 bytes. -/
theorem drop_frameBytes_trailer (payload : List Byte) (c : Checksum) :
    (frameBytes payload c).drop ((frameBytes payload c).length - 4) = enc32 c := by
  have h : (frameBytes payload c).length - 4 = (hdr ++ payload ++ ftr).length := by simp; omega
  rw [h]; unfold frameBytes; exact List.drop_left' rfl

/-- The entries kept are distinct from the vectors already seen and from one another. -/
theorem distinctEntries_nodup (seen : List (List Byte)) (es : List CsEntry) :
    ((distinctEntries seen es).map CsEntry.vector).Nodup ∧
      ∀ e ∈ distinctEntries seen es, e.vector ∉ seen := by
  induction es generalizing seen with
  | nil => simp [distinctEntries]
  | cons e t ih =>
    unfold distinctEntries
    split
    · exact ih seen
    · rename_i hne
      obtain ⟨h1, h2⟩ := ih (e.vector :: seen)
      constructor
      · rw [List.map_cons, List.nodup_cons]
        refine ⟨fun hm => ?_, h1⟩
        obtain ⟨e', he', hv⟩ := List.mem_map.mp hm
        exact h2 e' he' (by rw [hv]; exact List.mem_cons_self)
      · intro e' he'
        rcases List.mem_cons.mp he' with rfl | he'
        · simpa using hne
        · exact fun hs => h2 e' he' (List.mem_cons_of_mem _ hs)

/-- A lookup answers the first entry of `CS_TABLE` with the vector (R143). -/
theorem matchVector_mem {p : Params} {u : List Byte} {op : CsOp} {ph : CsPhase} (h : matchVector p u = some (op, ph)) :
    (⟨u, op, ph⟩ : CsEntry) ∈ csTable p := by
  unfold matchVector at h
  obtain ⟨e, he, heq⟩ := Option.map_eq_some_iff.mp h
  have hv := List.find?_some he
  have hm := List.mem_of_find?_eq_some he
  simp only [beq_iff_eq] at hv
  cases e with | mk v o q => simp only [Prod.mk.injEq] at heq hv ⊢; obtain ⟨rfl, rfl⟩ := heq; subst hv; exact hm

/-- A lookup answers nothing only for a vector that no entry has (R144). -/
theorem matchVector_none {p : Params} {u : List Byte} (h : matchVector p u = none) :
    ∀ e ∈ csTable p, e.vector ≠ u := by
  unfold matchVector at h
  rw [Option.map_eq_none_iff, List.find?_eq_none] at h
  intro e he hv
  exact h e he (by simp [hv])

end Sys2Proof.Machine
end

