-- ==== Sys2Proof/Laws/Frame.lean ====
section
/-! SUPPORT. What the pure operations on one frame can do, said once. -/

namespace Sys2Proof.Machine

open Sys2Proof.Config

/-- `PARSE` keeps the frame as `RAW` (R121). -/
@[simp] theorem parseFrame_raw (f : List Byte) : (parseFrame f).raw = f := by
  unfold parseFrame; split <;> rfl

@[simp] theorem parseFrame_rawLen (f : List Byte) : (parseFrame f).rawLen = f.length := by
  unfold parseFrame; split <;> rfl

/-- `DEMUX` adds to what `PARSE` found and changes none of it (R141). -/
@[simp] theorem demuxFrame_parsed (c : Params) (p : Parsed) : (demuxFrame c p).parsed = p := by
  unfold demuxFrame; split
  · rfl
  · split <;> rfl

@[simp] theorem recordOf_raw (c : Params) (f : List Byte) : (recordOf c f).parsed.raw = f := by
  simp [recordOf]

/-- The three routes of `DEMUX` (R141). -/
theorem demuxFrame_cases (c : Params) (p : Parsed) :
    (p.fields = none ∧ demuxFrame c p = ⟨.data, p, none, .absent⟩) ∨
    (∃ f, p.fields = some f ∧ f.mode = 0x00#8 ∧ demuxFrame c p = ⟨.cs, p, some true, decodeStatus c p⟩) ∨
    (∃ f, p.fields = some f ∧ f.mode ≠ 0x00#8 ∧ demuxFrame c p = ⟨.data, p, some (modeKnownFlag f.mode), .absent⟩) := by
  unfold demuxFrame
  cases p.fields with
  | none => exact .inl ⟨rfl, rfl⟩
  | some f =>
    by_cases hm : f.mode = 0x00#8
    · exact .inr (.inl ⟨f, rfl, hm, if_pos hm⟩)
    · exact .inr (.inr ⟨f, rfl, hm, if_neg hm⟩)

/-- What `CS_DECODE` can answer (R142 to R144, R147). -/
theorem decodeStatus_cases (c : Params) (p : Parsed) :
    (p.fields = none ∧ decodeStatus c p = .absent) ∨
    (∃ f, p.fields = some f ∧ f.valid = false ∧ decodeStatus c p = .skipped) ∨
    (∃ f, p.fields = some f ∧ f.valid = true ∧
      decodeStatus c p = lookupResult (matchVector c (slice p.raw 12 (12 + f.ulen.toNat)))) := by
  unfold decodeStatus
  cases p.fields with
  | none => exact .inl ⟨rfl, rfl⟩
  | some f =>
    cases hv : f.valid with
    | false => exact .inr (.inl ⟨f, rfl, hv, by simp [hv]⟩)
    | true => exact .inr (.inr ⟨f, rfl, hv, by simp [hv]⟩)

/-- When the bytes are a candidate frame, and what its payload and trailer are (R104). -/
theorem splitFrame_eq_ok {f payload : List Byte} {c : Checksum} :
    splitFrame f = .ok (payload, c) ↔
      f.take 8 = hdr ∧ ∃ i, findPat ftr f 8 = some i ∧ f.length = i + 8 ∧
        payload = slice f 8 i ∧ c = be32 (f.drop (i + 4)) := by
  unfold splitFrame
  by_cases hh : f.take 8 = hdr
  · rw [if_pos hh]
    cases hf : findPat ftr f 8 with
    | none => simp
    | some i =>
      by_cases hl : f.length = i + 8
      · simp [hh, hl, eq_comm]
      · simp [hl]
  · simp [hh]

end Sys2Proof.Machine
end

