-- ==== Sys2Proof/Laws/State.lean ====
section
/-! SUPPORT. One lemma per field per update of the state, so that no proof unfolds a record update; and the reset
values. -/

namespace Sys2Proof.Machine

@[simp] theorem appendBytes_acc (c : List Byte) (s : State) : (appendBytes c s).acc = s.acc ++ c := rfl
@[simp] theorem appendBytes_ovf (c : List Byte) (s : State) : (appendBytes c s).ovf = s.ovf := rfl
@[simp] theorem appendBytes_out (c : List Byte) (s : State) : (appendBytes c s).out = s.out := rfl
@[simp] theorem appendBytes_presented (c : List Byte) (s : State) : (appendBytes c s).presented = s.presented := rfl
@[simp] theorem appendBytes_live (c : List Byte) (s : State) : (appendBytes c s).live = s.live := rfl
@[simp] theorem appendBytes_cfg (c : List Byte) (s : State) : (appendBytes c s).cfg = s.cfg := rfl
@[simp] theorem appendBytes_input (c : List Byte) (s : State) : (appendBytes c s).input = s.input := rfl
@[simp] theorem appendBytes_ret (c : List Byte) (s : State) : (appendBytes c s).ret = s.ret := rfl

@[simp] theorem dropFront_acc (n : Nat) (s : State) : (dropFront n s).acc = s.acc.drop n := rfl
@[simp] theorem dropFront_ovf (n : Nat) (s : State) : (dropFront n s).ovf = s.ovf := rfl
@[simp] theorem dropFront_out (n : Nat) (s : State) : (dropFront n s).out = s.out := rfl
@[simp] theorem dropFront_presented (n : Nat) (s : State) : (dropFront n s).presented = s.presented := rfl
@[simp] theorem dropFront_live (n : Nat) (s : State) : (dropFront n s).live = s.live := rfl
@[simp] theorem dropFront_cfg (n : Nat) (s : State) : (dropFront n s).cfg = s.cfg := rfl
@[simp] theorem dropFront_input (n : Nat) (s : State) : (dropFront n s).input = s.input := rfl
@[simp] theorem dropFront_ret (n : Nat) (s : State) : (dropFront n s).ret = s.ret := rfl

@[simp] theorem consumeFront_acc (n : Nat) (s : State) : (consumeFront n s).2.acc = s.acc.drop n := rfl
@[simp] theorem consumeFront_ovf (n : Nat) (s : State) : (consumeFront n s).2.ovf = s.ovf := rfl
@[simp] theorem consumeFront_out (n : Nat) (s : State) : (consumeFront n s).2.out = s.out := rfl
@[simp] theorem consumeFront_presented (n : Nat) (s : State) : (consumeFront n s).2.presented = s.presented := rfl
@[simp] theorem consumeFront_live (n : Nat) (s : State) : (consumeFront n s).2.live = s.live := rfl
@[simp] theorem consumeFront_cfg (n : Nat) (s : State) : (consumeFront n s).2.cfg = s.cfg := rfl
@[simp] theorem consumeFront_input (n : Nat) (s : State) : (consumeFront n s).2.input = s.input := rfl
@[simp] theorem consumeFront_ret (n : Nat) (s : State) : (consumeFront n s).2.ret = s.ret := rfl
@[simp] theorem consumeFront_returns (n : Nat) (s : State) : (consumeFront n s).1 = s.acc.take n := rfl

@[simp] theorem clearState_acc (s : State) : (clearState s).acc = [] := rfl
@[simp] theorem clearState_ovf (s : State) : (clearState s).ovf = false := rfl
@[simp] theorem clearState_out (s : State) : (clearState s).out = s.out := rfl
@[simp] theorem clearState_presented (s : State) : (clearState s).presented = s.presented := rfl
@[simp] theorem clearState_live (s : State) : (clearState s).live = s.live := rfl
@[simp] theorem clearState_cfg (s : State) : (clearState s).cfg = s.cfg := rfl
@[simp] theorem clearState_input (s : State) : (clearState s).input = s.input := rfl
@[simp] theorem clearState_ret (s : State) : (clearState s).ret = s.ret := rfl

@[simp] theorem takeOverflow_acc (s : State) : (takeOverflow s).acc = s.acc.drop 1 := rfl
@[simp] theorem takeOverflow_ovf (s : State) : (takeOverflow s).ovf = true := rfl
@[simp] theorem takeOverflow_out (s : State) : (takeOverflow s).out = s.out := rfl
@[simp] theorem takeOverflow_presented (s : State) : (takeOverflow s).presented = s.presented := rfl
@[simp] theorem takeOverflow_live (s : State) : (takeOverflow s).live = s.live := rfl
@[simp] theorem takeOverflow_cfg (s : State) : (takeOverflow s).cfg = s.cfg := rfl
@[simp] theorem takeOverflow_input (s : State) : (takeOverflow s).input = s.input := rfl
@[simp] theorem takeOverflow_ret (s : State) : (takeOverflow s).ret = s.ret := rfl

@[simp] theorem emitRecord_acc (r : Record) (s : State) : (emitRecord r s).acc = s.acc := rfl
@[simp] theorem emitRecord_ovf (r : Record) (s : State) : (emitRecord r s).ovf = s.ovf := rfl
@[simp] theorem emitRecord_out (r : Record) (s : State) : (emitRecord r s).out = s.out ++ [r] := rfl
@[simp] theorem emitRecord_presented (r : Record) (s : State) : (emitRecord r s).presented = s.presented ++ [r] := rfl
@[simp] theorem emitRecord_live (r : Record) (s : State) : (emitRecord r s).live = s.live := rfl
@[simp] theorem emitRecord_cfg (r : Record) (s : State) : (emitRecord r s).cfg = s.cfg := rfl
@[simp] theorem emitRecord_input (r : Record) (s : State) : (emitRecord r s).input = s.input := rfl
@[simp] theorem emitRecord_ret (r : Record) (s : State) : (emitRecord r s).ret = s.ret := rfl

@[simp] theorem setRet_acc (r : Ret) (s : State) : (setRet r s).acc = s.acc := rfl
@[simp] theorem setRet_ovf (r : Ret) (s : State) : (setRet r s).ovf = s.ovf := rfl
@[simp] theorem setRet_out (r : Ret) (s : State) : (setRet r s).out = s.out := rfl
@[simp] theorem setRet_presented (r : Ret) (s : State) : (setRet r s).presented = s.presented := rfl
@[simp] theorem setRet_live (r : Ret) (s : State) : (setRet r s).live = s.live := rfl
@[simp] theorem setRet_cfg (r : Ret) (s : State) : (setRet r s).cfg = s.cfg := rfl
@[simp] theorem setRet_input (r : Ret) (s : State) : (setRet r s).input = s.input := rfl
@[simp] theorem setRet_ret (r : Ret) (s : State) : (setRet r s).ret = r := rfl

@[simp] theorem beginStep_acc (s : State) : (beginStep s).acc = s.acc := rfl
@[simp] theorem beginStep_ovf (s : State) : (beginStep s).ovf = s.ovf := rfl
@[simp] theorem beginStep_out (s : State) : (beginStep s).out = s.out := rfl
@[simp] theorem beginStep_presented (s : State) : (beginStep s).presented = [] := rfl
@[simp] theorem beginStep_live (s : State) : (beginStep s).live = s.live := rfl
@[simp] theorem beginStep_cfg (s : State) : (beginStep s).cfg = s.cfg := rfl
@[simp] theorem beginStep_input (s : State) : (beginStep s).input = s.input.tail := rfl
@[simp] theorem beginStep_ret (s : State) : (beginStep s).ret = .nothing := rfl

@[simp] theorem presentNext_acc (w : Presented) (s : State) : (presentNext s w).acc = s.acc := rfl
@[simp] theorem presentNext_ovf (w : Presented) (s : State) : (presentNext s w).ovf = s.ovf := rfl
@[simp] theorem presentNext_out (w : Presented) (s : State) : (presentNext s w).out = s.out := rfl
@[simp] theorem presentNext_presented (w : Presented) (s : State) : (presentNext s w).presented = s.presented := rfl
@[simp] theorem presentNext_live (w : Presented) (s : State) : (presentNext s w).live = true := rfl
@[simp] theorem presentNext_cfg (w : Presented) (s : State) : (presentNext s w).cfg = s.cfg := rfl
@[simp] theorem presentNext_input (w : Presented) (s : State) : (presentNext s w).input = w :: s.input.tail := rfl
@[simp] theorem presentNext_ret (w : Presented) (s : State) : (presentNext s w).ret = s.ret := rfl

@[simp] theorem reset_acc : State.reset.acc = [] := rfl
@[simp] theorem reset_ovf : State.reset.ovf = false := rfl
@[simp] theorem reset_out : State.reset.out = [] := rfl
@[simp] theorem reset_presented : State.reset.presented = [] := rfl
@[simp] theorem reset_live : State.reset.live = true := rfl
@[simp] theorem reset_cfg : State.reset.cfg = Config.params := rfl
@[simp] theorem reset_input : State.reset.input = [] := rfl
@[simp] theorem reset_ret : State.reset.ret = .nothing := rfl

end Sys2Proof.Machine
end

