-- ==== Sys2Proof/Laws/Ops.lean ====
section
/-! SUPPORT. What each shared operation over the state can do, said once: its cases and its frame. -/

namespace Sys2Proof.Machine

open Sys2Proof.Config

/-! The accumulator as memory. -/

/-- The cells of the accumulator have the canonical form, whatever operation left it. -/
theorem cells_wf (s : State) : Memory.wf s.cells = true := by
  unfold Memory.wf State.cells
  rw [beq_iff_eq, List.map_map, List.length_map, List.length_zipIdx]
  have h : (Prod.fst ∘ fun x : Byte × Nat => (x.2, x.1)) = Prod.snd := rfl
  rw [h, List.zipIdx_map_snd, List.range_eq_range']

/-- Equal cells are equal accumulators: the bytes of the cells are `ACC`. -/
theorem cells_bytes (s : State) : s.cells.map Prod.snd = s.acc := by
  unfold State.cells
  rw [List.map_map]
  have h : (Prod.snd ∘ fun x : Byte × Nat => (x.2, x.1)) = Prod.fst := rfl
  rw [h, List.zipIdx_map_fst]

/-- A byte appended is read at the tail, and the others keep their offsets (R90). -/
theorem readByte_appendBytes (c : List Byte) (s : State) (a : Nat) :
    readByte (appendBytes c s) a = if a < s.acc.length then readByte s a else (c.drop (a - s.acc.length)).head? := by
  unfold readByte
  rw [appendBytes_acc, List.getElem?_append, List.head?_drop]

/-- Every remaining byte's offset falls by `n` (R92). -/
theorem readByte_dropFront (n : Nat) (s : State) (a : Nat) : readByte (dropFront n s) a = readByte s (n + a) := by
  unfold readByte
  rw [dropFront_acc, List.getElem?_drop]

/-- The accumulator is full exactly when its capacity is its length (R162). -/
theorem isFull_iff (s : State) : isFull s = true ↔ accCap s.cfg = some s.acc.length := by
  unfold isFull accCap
  cases s.cfg.capOver with
  | none => simp
  | some k =>
    simp only [Option.map_some, Bool.and_eq_true, decide_eq_true_eq, beq_iff_eq, Option.some.injEq]
    omega

/-- The memory of the state after reset has the canonical form, and is empty. -/
theorem reset_cells : Memory.wf State.reset.cells = true ∧ State.reset.cells = [] := ⟨cells_wf _, rfl⟩

/-! The scanner. -/

/-- What one `SCAN_PASS` can do (R102 to R104). -/
theorem passOnce_cases (s : State) :
    (findPat hdr s.acc 0 = none ∧
      passOnce s = (.noFrame .needHeader,
        { s with acc := if s.acc.length > 8 then s.acc.drop (s.acc.length - 7) else s.acc })) ∨
    (∃ h, findPat hdr s.acc 0 = some h ∧ findPat ftr s.acc (h + 8) = none ∧
      passOnce s = (.noFrame .needFooter, { s with acc := s.acc.drop h })) ∨
    (∃ h f, findPat hdr s.acc 0 = some h ∧ findPat ftr s.acc (h + 8) = some f ∧ s.acc.length < f + 8 ∧
      passOnce s = (.noFrame .needTrailer, { s with acc := s.acc.drop h })) ∨
    (∃ h f, findPat hdr s.acc 0 = some h ∧ findPat ftr s.acc (h + 8) = some f ∧ f + 8 ≤ s.acc.length ∧
      passOnce s = (.frame (slice s.acc h (f + 8)), { s with acc := s.acc.drop (f + 8) })) := by
  unfold passOnce headerSearch
  cases hh : findPat hdr s.acc 0 with
  | none =>
    left
    refine ⟨rfl, ?_⟩
    by_cases hl : s.acc.length > 8
    · rw [if_pos hl]; simp only [hdrLen, if_pos hl]; rfl
    · rw [if_neg hl]; simp only [if_neg hl]
  | some h =>
    right
    simp only [footerSearch, hdrLen]
    cases hf : findPat ftr s.acc (h + 8) with
    | none => left; exact ⟨h, rfl, hf, rfl⟩
    | some f =>
      right
      have hle := (findPat_le_length ftr_ne_nil hf).1
      simp only [trailerCheck, ftrLen, trlLen]
      by_cases hl : f + 8 ≤ s.acc.length
      · right
        refine ⟨h, f, rfl, hf, hl, ?_⟩
        rw [if_pos (by omega)]
        simp only [consumeFront, dropFront, slice, List.drop_drop, List.take_drop, Prod.mk.injEq, PassResult.frame.injEq]
        refine ⟨?_, ?_⟩
        · rw [show h + (f - h + (4 + 4)) = f + 8 by omega]
        · rw [show h + (f - h + (4 + 4)) = f + 8 by omega]
      · left
        exact ⟨h, f, rfl, hf, by omega, by rw [if_neg (by omega)]; rfl⟩

/-- A pass writes the accumulator alone. -/
theorem passOnce_frame (s : State) : ∃ a, (passOnce s).2 = { s with acc := a } := by
  rcases passOnce_cases s with ⟨-, h⟩ | ⟨_, -, -, h⟩ | ⟨_, _, -, -, -, h⟩ | ⟨_, _, -, -, -, h⟩ <;> exact ⟨_, by rw [h]⟩

/-- `SCAN` writes the accumulator and adds records; it writes nothing else (R105). -/
theorem scanLoop_frame (n : Nat) (s : State) :
    ∃ a rs, (scanLoop n s).2 = { s with acc := a, out := s.out ++ rs, presented := s.presented ++ rs } := by
  induction n generalizing s with
  | zero => exact ⟨s.acc, [], by simp [scanLoop]⟩
  | succ n ih =>
    obtain ⟨a, ha⟩ := passOnce_frame s
    unfold scanLoop
    rcases hp : passOnce s with ⟨_ | why, s1⟩
    · rename_i f
      rw [hp] at ha
      simp only at ha ⊢
      obtain ⟨a', rs, h⟩ := ih (emitRecord (recordOf s1.cfg f) s1)
      refine ⟨a', recordOf s1.cfg f :: rs, ?_⟩
      rw [h, ha]; simp [emitRecord]
    · rw [hp] at ha
      exact ⟨a, [], by simp only at ha ⊢; rw [ha]; simp⟩

theorem scanAll_frame (s : State) :
    ∃ a rs, (scanAll s).2 = { s with acc := a, out := s.out ++ rs, presented := s.presented ++ rs } :=
  scanLoop_frame _ s

/-! Bytes that arrive. -/

/-- A `PUSH` of an accumulator that is not full (R162). -/
theorem pushByte_of_room {s : State} (b : Byte) (h : accCap s.cfg ≠ some s.acc.length) :
    pushByte b s = (scanAll (appendBytes [b] s)).2 := by
  unfold pushByte
  rw [if_neg (fun hf => h ((isFull_iff s).mp hf))]

/-- A `PUSH` of a full accumulator (R169). -/
theorem pushByte_of_full {s : State} (b : Byte) (h : accCap s.cfg = some s.acc.length) :
    pushByte b s = (scanAll (appendBytes [b] (takeOverflow s))).2 := by
  unfold pushByte
  rw [if_pos ((isFull_iff s).mpr h)]

/-- A `PUSH` writes the accumulator and, when full, `OVF`, and adds records; it writes nothing else. -/
theorem pushByte_frame (b : Byte) (s : State) :
    ∃ a rs, pushByte b s =
      { s with acc := a, ovf := s.ovf || isFull s, out := s.out ++ rs, presented := s.presented ++ rs } := by
  unfold pushByte
  cases hf : isFull s with
  | true =>
    obtain ⟨a, rs, h⟩ := scanAll_frame (appendBytes [b] (takeOverflow s))
    exact ⟨a, rs, by rw [if_pos rfl, h]; simp [appendBytes, takeOverflow, dropFront]⟩
  | false =>
    obtain ⟨a, rs, h⟩ := scanAll_frame (appendBytes [b] s)
    exact ⟨a, rs, by rw [if_neg (by simp), h]; simp [appendBytes]⟩

/-- A run of `PUSH` writes the accumulator and `OVF`, which it never clears, and adds records. -/
theorem pushAll_frame (c : List Byte) (s : State) :
    ∃ a o rs, pushAll c s =
      { s with acc := a, ovf := s.ovf || o, out := s.out ++ rs, presented := s.presented ++ rs } := by
  induction c generalizing s with
  | nil => exact ⟨s.acc, false, [], by simp [pushAll]⟩
  | cons b t ih =>
    obtain ⟨a, rs, h⟩ := pushByte_frame b s
    obtain ⟨a', o', rs', h'⟩ := ih (pushByte b s)
    refine ⟨a', isFull s || o', rs ++ rs', ?_⟩
    have : pushAll (b :: t) s = pushAll t (pushByte b s) := rfl
    rw [this, h', h]
    simp [Bool.or_assoc]

/-- `APPEND` writes what a run of `PUSH` writes. -/
theorem appendAndScan_frame (c : List Byte) (s : State) :
    ∃ a o rs, appendAndScan c s =
      { s with acc := a, ovf := s.ovf || o, out := s.out ++ rs, presented := s.presented ++ rs } := by
  unfold appendAndScan
  split
  · obtain ⟨a, rs, h⟩ := scanAll_frame (appendBytes c s)
    exact ⟨a, false, rs, by rw [h]; simp [appendBytes]⟩
  · exact pushAll_frame c s

/-! What is presented. -/

theorem fetched_cons {s : State} {w : Presented} {rest : List Presented} (h : s.input = w :: rest) : fetched s = w := by
  unfold fetched; rw [h]

@[simp] theorem fetched_presentNext (s : State) (w : Presented) : fetched (presentNext s w) = w := rfl

/-- Nothing presented is the canonical `NOP` (R161). -/
theorem fetched_nil {s : State} (h : s.input = []) : fetched s = .pins false 0x000#10 := by
  unfold fetched; rw [h]

end Sys2Proof.Machine
end

