-- ==== Sys2Proof/Laws/PerInstr.lean ====
section
/-! SUPPORT. The family `EncodingExists`: an instruction has an encoding exactly when it is not an internal operation
(R10), one lemma per constructor. -/

namespace Sys2Proof.Laws

/-- Every operation but the internal ones has an encoding (R10). -/
def EncodingExists.Statement (i : Instr) : Prop := (encode i).isSome = !isInternal i

theorem EncodingExists.nop (d : Byte) : EncodingExists.Statement (.nop d) := rfl
theorem EncodingExists.push (b : Byte) : EncodingExists.Statement (.push b) := rfl
theorem EncodingExists.clear (d : Byte) : EncodingExists.Statement (.clear d) := rfl
theorem EncodingExists.rsvd3 (d : Byte) : EncodingExists.Statement (.rsvd3 d) := rfl
theorem EncodingExists.reset (w : CmdWord) : EncodingExists.Statement (.reset w) := rfl
theorem EncodingExists.hdr : EncodingExists.Statement (.hdr) := rfl
theorem EncodingExists.ftr : EncodingExists.Statement (.ftr) := rfl
theorem EncodingExists.frame (p : List Byte) (c : Checksum) : EncodingExists.Statement (.frame p c) := rfl
theorem EncodingExists.mode00CmdStatus (f : FrameRest) : EncodingExists.Statement (.mode00CmdStatus f) := rfl
theorem EncodingExists.mode01Adc24 (f : FrameRest) : EncodingExists.Statement (.mode01Adc24 f) := rfl
theorem EncodingExists.mode02Adc24 (f : FrameRest) : EncodingExists.Statement (.mode02Adc24 f) := rfl
theorem EncodingExists.mode03Struct (f : FrameRest) : EncodingExists.Statement (.mode03Struct f) := rfl
theorem EncodingExists.mode04Adc12 (f : FrameRest) : EncodingExists.Statement (.mode04Adc12 f) := rfl
theorem EncodingExists.mode05Adc12 (f : FrameRest) : EncodingExists.Statement (.mode05Adc12 f) := rfl
theorem EncodingExists.mode07Adc12 (f : FrameRest) : EncodingExists.Statement (.mode07Adc12 f) := rfl
theorem EncodingExists.modeUnknown (m : Byte) (f : FrameRest) : EncodingExists.Statement (.modeUnknown m f) := rfl
theorem EncodingExists.csThermistorComplete (f : FrameRest) : EncodingExists.Statement (.csThermistorComplete f) := rfl
theorem EncodingExists.csUnknown (f : FrameRest) : EncodingExists.Statement (.csUnknown f) := rfl
theorem EncodingExists.csSkipped (f : FrameRest) : EncodingExists.Statement (.csSkipped f) := rfl
theorem EncodingExists.append (c : List Byte) : EncodingExists.Statement (.append c) := rfl
theorem EncodingExists.consumePrefix (n : Nat) : EncodingExists.Statement (.consumePrefix n) := rfl
theorem EncodingExists.dropPrefix (n : Nat) : EncodingExists.Statement (.dropPrefix n) := rfl
theorem EncodingExists.find (p : List Byte) (q : List Byte) (n : Nat) : EncodingExists.Statement (.find p q n) := rfl
theorem EncodingExists.scanPass : EncodingExists.Statement (.scanPass) := rfl
theorem EncodingExists.scan : EncodingExists.Statement (.scan) := rfl
theorem EncodingExists.parse (f : List Byte) : EncodingExists.Statement (.parse f) := rfl
theorem EncodingExists.csum (u : List Byte) : EncodingExists.Statement (.csum u) := rfl
theorem EncodingExists.verify (c : Checksum) (r : Checksum) : EncodingExists.Statement (.verify c r) := rfl
theorem EncodingExists.demux (p : Parsed) : EncodingExists.Statement (.demux p) := rfl
theorem EncodingExists.csDecode (p : Parsed) : EncodingExists.Statement (.csDecode p) := rfl
theorem EncodingExists.csMatch (u : List Byte) : EncodingExists.Statement (.csMatch u) := rfl
theorem EncodingExists.emit (r : Record) : EncodingExists.Statement (.emit r) := rfl
theorem EncodingExists.appendChunk (c : List Byte) : EncodingExists.Statement (.appendChunk c) := rfl

end Sys2Proof.Laws
end

