-- ==== Sys2Proof/Tests/Slice0.lean ====
section
/-! SUPPORT. Tests. Expected values are those of `spec/95_test_vectors.md` (the vector is named at each test) or are
worked by hand from the rule named there. -/

namespace Sys2Proof.Tests

open Sys2Proof Sys2Proof.Machine Sys2Proof.Config

/-! Helpers. -/

/-- A state after `RESET` with these bytes in `ACC` and this capacity above 16; `CS_TABLE` is the known entry. -/
def holding (acc : List Byte) (cap : Option Nat) : State := { State.reset with acc := acc, cfg := ⟨cap, []⟩ }

/-- The outcome is a next state of which the check holds. -/
def answers (o : Host.Outcome State Fault Refusal) (check : State → Bool) : Bool :=
  match o with
  | .next t => check t
  | .fault _ => false
  | .refused _ => false

/-- `F1`, `F2` of `95_test_vectors.md`. -/
def f1 : List Byte :=
  [0x50#8, 0x52#8, 0x44#8, 0x54#8, 0x49#8, 0x52#8, 0x30#8, 0x31#8, 0x00#8, 0x08#8, 0x01#8, 0x00#8, 0x00#8, 0x02#8,
    0x01#8, 0x00#8, 0x00#8, 0x00#8, 0x02#8, 0x00#8, 0x24#8, 0x24#8, 0x24#8, 0x24#8, 0x00#8, 0x00#8, 0x00#8, 0x05#8]

def f2 : List Byte :=
  [0x50#8, 0x52#8, 0x44#8, 0x54#8, 0x49#8, 0x52#8, 0x30#8, 0x31#8, 0x00#8, 0x02#8, 0x01#8, 0x04#8, 0x0C#8, 0x80#8,
    0x24#8, 0x24#8, 0x24#8, 0x24#8, 0x00#8, 0x00#8, 0x00#8, 0x8C#8]

/-- The known vector in a frame of device 1, with a given trailer. -/
def known (c : Checksum) : FrameRest := ⟨8#16, 0x01#8, knownVector, c⟩

/-- The useful data of `F2` in a frame of device 1. -/
def adc : FrameRest := ⟨2#16, 0x01#8, [0x0C#8, 0x80#8], 0x8C#32⟩

/-- Two bytes that make the first footer stand early. -/
def early : FrameRest := ⟨2#16, 0x01#8, [0x01#8, 0x24#8], 0x25#32⟩

/-! Decoding: one word written out from the spec's encoding for every instruction that has one. -/

theorem test_decode_nop : decode (.pins false 0b0000000000#10) = .ok (.nop 0x00#8) := by rfl
theorem test_decode_nop_data : decode (.pins false 0b0011111111#10) = .ok (.nop 0xFF#8) := by rfl
theorem test_decode_push : decode (.pins false 0b0101010000#10) = .ok (.push 0x50#8) := by rfl
theorem test_decode_clear : decode (.pins false 0b1000000000#10) = .ok (.clear 0x00#8) := by rfl
theorem test_decode_rsvd3 : decode (.pins false 0b1100000000#10) = .ok (.rsvd3 0x00#8) := by rfl
theorem test_decode_reset : decode (.pins true 0b1111111111#10) = .ok (.reset 0x3FF#10) := by rfl
theorem test_decode_hdr :
    decode (.sync [0x50#8, 0x52#8, 0x44#8, 0x54#8, 0x49#8, 0x52#8, 0x30#8, 0x31#8]) = .ok .hdr := by rfl
theorem test_decode_ftr : decode (.sync [0x24#8, 0x24#8, 0x24#8, 0x24#8]) = .ok .ftr := by rfl
/-- V-F8(a): the shortest frame. -/
theorem test_decode_frame :
    decode (.wire [0x50#8, 0x52#8, 0x44#8, 0x54#8, 0x49#8, 0x52#8, 0x30#8, 0x31#8,
      0x24#8, 0x24#8, 0x24#8, 0x24#8, 0x00#8, 0x00#8, 0x00#8, 0x07#8]) = .ok (.frame [] 7#32) := by rfl
theorem test_decode_frame_f2 :
    decode (.wire f2) = .ok (.frame [0x00#8, 0x02#8, 0x01#8, 0x04#8, 0x0C#8, 0x80#8] 0x8C#32) := by rfl
theorem test_decode_mode00 : decode (.modeByte f1) = .ok (.mode00CmdStatus (known 5#32)) := by rfl
/-- One 8-bit word stands for two rows, the pin `RST = 1` and the mode byte 0x01: log 8. -/
theorem test_decode_table_word_one : decodeTableWord 8 0x01 = some (.reset 0x000#10) := by rfl
theorem test_decode_mode01 : decode (.modeByte (restFrame 0x01#8 adc)) = .ok (.mode01Adc24 adc) := by rfl
theorem test_decode_mode02 : decodeTableWord 8 0x02 = some (.mode02Adc24 ⟨0#16, 0#8, [], 0#32⟩) := by rfl
theorem test_decode_mode03 : decodeTableWord 8 0x03 = some (.mode03Struct ⟨0#16, 0#8, [], 0#32⟩) := by rfl
theorem test_decode_mode04 : decode (.modeByte f2) = .ok (.mode04Adc12 adc) := by rfl
theorem test_decode_mode05 : decodeTableWord 8 0x05 = some (.mode05Adc12 ⟨0#16, 0#8, [], 0#32⟩) := by rfl
theorem test_decode_mode07 : decodeTableWord 8 0x07 = some (.mode07Adc12 ⟨0#16, 0#8, [], 0#32⟩) := by rfl
/-- 0x06 is not in the known set (R71). -/
theorem test_decode_mode06 : decodeTableWord 8 0x06 = some (.modeUnknown 0x06#8 ⟨0#16, 0#8, [], 0#32⟩) := by rfl
theorem test_decode_csThermistorComplete : decode (.csVector f1) = .ok (.csThermistorComplete (known 5#32)) := by rfl
/-- V-D2. -/
theorem test_decode_csUnknown :
    decode (.csVector (frameOf 0x01#8 0x00#8 [0x00#8, 0x02#8, 0x01#8, 0x00#8, 0x00#8, 0x00#8, 0x02#8, 0x01#8])) =
      .ok (.csUnknown ⟨8#16, 0x01#8, [0x00#8, 0x02#8, 0x01#8, 0x00#8, 0x00#8, 0x00#8, 0x02#8, 0x01#8], 6#32⟩) := by rfl
/-- V-D3. -/
theorem test_decode_csSkipped : decode (.csVector (restFrame 0x00#8 (known 6#32))) = .ok (.csSkipped (known 6#32)) := by
  rfl
theorem test_decode_appendChunk : decode (.chunk [0x50#8]) = .ok (.appendChunk [0x50#8]) := by rfl
/-- The bytes of `F1` and `F2` as the spec lists them are the layout of R64 and the notation of R77. -/
theorem test_frame_layout :
    restFrame 0x00#8 (known 5#32) = f1 ∧ frameOf 0x01#8 0x04#8 [0x0C#8, 0x80#8] = f2 := by decide
theorem test_reject_literal : decode (.sync [0x24#8, 0x24#8, 0x24#8]) = .error .noSuchLiteral := by rfl
theorem test_reject_no_header : decode (.wire ftr) = .error .frameWithoutHeader := by rfl
theorem test_reject_no_footer : decode (.wire hdr) = .error .frameWithoutFooter := by rfl
theorem test_reject_early_footer : decode (.wire (restFrame 0x04#8 early)) = .error .frameTrailerLength := by rfl
theorem test_reject_short : decode (.modeByte (frameBytes [0x00#8] 0#32)) = .error .frameFieldsMissing := by rfl
theorem test_reject_not_status : decode (.csVector f2) = .error .frameNotCommandStatus := by rfl

/-! `wellFormed` refuses an ill-formed term of each of its checks. -/

theorem test_wf_frame_footer_early : wellFormed (.frame (ftr ++ [0x00#8]) 0#32) = false := by decide
theorem test_wf_mode00_footer_early : wellFormed (.mode00CmdStatus early) = false := by decide
theorem test_wf_mode01_footer_early : wellFormed (.mode01Adc24 early) = false := by decide
theorem test_wf_mode02_footer_early : wellFormed (.mode02Adc24 early) = false := by decide
theorem test_wf_mode03_footer_early : wellFormed (.mode03Struct early) = false := by decide
theorem test_wf_mode04_footer_early : wellFormed (.mode04Adc12 early) = false := by decide
theorem test_wf_mode05_footer_early : wellFormed (.mode05Adc12 early) = false := by decide
theorem test_wf_mode07_footer_early : wellFormed (.mode07Adc12 early) = false := by decide
theorem test_wf_modeUnknown_footer_early : wellFormed (.modeUnknown 0x06#8 early) = false := by decide
theorem test_wf_modeUnknown_of_known_mode : wellFormed (.modeUnknown 0x07#8 adc) = false := by decide
theorem test_wf_csThermistorComplete_invalid : wellFormed (.csThermistorComplete (known 6#32)) = false := by decide
theorem test_wf_csThermistorComplete_other : wellFormed (.csThermistorComplete adc) = false := by decide
theorem test_wf_csThermistorComplete_footer_early :
    wellFormed (.csThermistorComplete ⟨8#16, 1#8, knownVector ++ [0x24#8], 5#32⟩) = false := by decide
theorem test_wf_csUnknown_invalid : wellFormed (.csUnknown { adc with csum := 0#32 }) = false := by decide
theorem test_wf_csUnknown_of_known : wellFormed (.csUnknown (known 5#32)) = false := by decide
theorem test_wf_csUnknown_footer_early : wellFormed (.csUnknown early) = false := by decide
theorem test_wf_csSkipped_valid : wellFormed (.csSkipped (known 5#32)) = false := by decide
theorem test_wf_csSkipped_footer_early : wellFormed (.csSkipped { early with csum := 0#32 }) = false := by decide
theorem test_wf_find_other_pattern : wellFormed (.find [0x24#8] [] 0) = false := by decide
theorem test_wf_parse_no_frame : wellFormed (.parse hdr) = false := by decide
theorem test_wf_csum_too_long : wellFormed (.csum (List.replicate 65536 0#8)) = false := by
  simp only [wellFormed, List.length_replicate]; decide
theorem test_wf_csMatch_too_long : wellFormed (.csMatch (List.replicate 65536 0#8)) = false := by
  simp only [wellFormed, List.length_replicate]; decide
theorem test_wf_demux_not_parsed : wellFormed (.demux ⟨f1, 27, 5#32, none⟩) = false := by decide
theorem test_wf_csDecode_not_parsed : wellFormed (.csDecode ⟨f1, 28, 6#32, none⟩) = false := by decide
theorem test_wf_csDecode_other_mode : wellFormed (.csDecode (parseFrame f2)) = false := by decide
theorem test_wf_emit_wrong_port : wellFormed (.emit ⟨.data, parseFrame f1, some true, .absent⟩) = false := by decide
theorem test_wf_emit_wrong_port_data : wellFormed (.emit ⟨.cs, parseFrame f2, some true, .absent⟩) = false := by decide
theorem test_wf_emit_malformed_with_mode :
    wellFormed (.emit ⟨.data, parseFrame (frameBytes [] 0#32), some true, .absent⟩) = false := by decide
theorem test_wf_emit_skipped_of_valid : wellFormed (.emit ⟨.cs, parseFrame f1, some true, .skipped⟩) = false := by decide
theorem test_wf_emit_unknown_of_known : wellFormed (.emit ⟨.cs, parseFrame f1, some true, .unknown⟩) = false := by decide
theorem test_wf_emit_known_wrongly :
    wellFormed (.emit ⟨.cs, parseFrame f1, some true, .known .radiative .start⟩) = false := by decide
theorem test_wf_emit_not_parsed : wellFormed (.emit ⟨.data, ⟨f1, 0, 0#32, none⟩, none, .absent⟩) = false := by decide
theorem test_wf_accepts_records :
    (wellFormed (.emit (recordOf ⟨none, []⟩ f1)) && wellFormed (.emit (recordOf ⟨none, []⟩ f2)) &&
      wellFormed (.csDecode (parseFrame f1)) && wellFormed (.demux (parseFrame f2)) && wellFormed (.parse f1)) = true := by
  decide

/-! One step of each instruction, at most two tests each. -/

/-- V-H1. -/
theorem test_nop : answers (exec (.nop 0xFF#8) (holding [0x50#8, 0x52#8] none))
    (fun t => t.acc == [0x50#8, 0x52#8] && t.out == [] && stLevel t == 2) = true := by decide
/-- V-S1: the last byte of `F1` emits its record and the event (1, 0, 1), and empties `ACC`. -/
theorem test_push_completes : answers (exec (.push 0x05#8) (holding (f1.take 27) none))
    (fun t => t.acc == [] && t.ovf == false &&
      t.out == [⟨.cs, ⟨f1, 28, 5#32, some ⟨8#16, 0x01#8, 0x00#8, 8, 8#16, false, 5#32, true⟩⟩, some true,
        .known .thermistor .complete⟩] &&
      presentedEvents t == [⟨true, some .thermistor, some .complete⟩]) = true := by decide
/-- V-H5: `ACC_CAP = 24`; the first header is lost and the later one takes over. -/
theorem test_push_overflow : answers
    (exec (.push 0x24#8)
      (holding (hdr ++ [0xEE#8] ++ hdr ++ [0x00#8, 0x00#8, 0x01#8, 0x06#8, 0x24#8, 0x24#8, 0x24#8]) (some 8)))
    (fun t => t.ovf && t.acc == hdr ++ [0x00#8, 0x00#8, 0x01#8, 0x06#8, 0x24#8, 0x24#8, 0x24#8, 0x24#8] &&
      stPhase t == .needTrailer && t.out == []) = true := by decide
/-- V-H2, R163. -/
theorem test_clear : answers (exec (.clear 0x00#8) { holding (f2.take 15) none with ovf := true })
    (fun t => t.acc == [] && t.ovf == false && stPhase t == .needHeader && t.out == []) = true := by decide
/-- V-H3. -/
theorem test_rsvd3 : exec (.rsvd3 0x00#8) State.reset = .refused .reservedCommandWord := by rfl
/-- V-H6, from the end of V-H4. -/
theorem test_reset : answers
    (exec (.reset 0x3FF#10)
      { holding [0x03#8, 0x04#8, 0x05#8] (some 0) with ovf := true, live := false, out := [recordOf ⟨none, []⟩ f2] })
    (fun t => t.acc == [] && t.ovf == false && t.out == [] && t.live && stLevel t == 0) = true := by decide
/-- R102, example. -/
theorem test_hdr_trims : answers
    (exec .hdr (holding [0xA0#8, 0xA1#8, 0xA2#8, 0xA3#8, 0xA4#8, 0xA5#8, 0xA6#8, 0xA7#8, 0xA8#8] none))
    (fun t => t.acc == [0xA2#8, 0xA3#8, 0xA4#8, 0xA5#8, 0xA6#8, 0xA7#8, 0xA8#8] &&
      t.ret == .pass (.noFrame .needHeader)) = true := by decide
/-- V-F1. -/
theorem test_hdr_finds : answers (exec .hdr (holding (0xAA#8 :: hdr) none))
    (fun t => t.acc == 0xAA#8 :: hdr && t.ret == .headerAt 1) = true := by decide
/-- R103, example. -/
theorem test_ftr_anchors : answers (exec .ftr (holding ([0xAA#8, 0xBB#8, 0xCC#8] ++ hdr ++ [0x00#8, 0x02#8]) none))
    (fun t => t.acc == hdr ++ [0x00#8, 0x02#8] && t.ret == .pass (.noFrame .needFooter)) = true := by decide
/-- V-F9: `h = 1`, `f = 15`. -/
theorem test_ftr_finds : answers (exec .ftr (holding (0xAA#8 :: f2) none)) (fun t => t.ret == .footerAt 1 15) = true := by
  decide
/-- V-F8(a). -/
theorem test_frame_malformed : answers (exec (.frame [] 0#32) (holding [] none))
    (fun t => t.out == [⟨.data, ⟨frameBytes [] 0#32, 16, 0#32, none⟩, none, .absent⟩]) = true := by decide
/-- V-D3 by its frame. -/
theorem test_mode00_invalid : answers (exec (.mode00CmdStatus (known 6#32)) (holding [] none))
    (fun t => t.out.map Record.cs == [.skipped] && t.out.map Record.port == [.cs]) = true := by decide
/-- V-D7: even with a status vector as its data. -/
theorem test_mode01 : answers (exec (.mode01Adc24 (known 5#32)) (holding [] none))
    (fun t => t.out.map Record.port == [.data] && t.out.map Record.cs == [.absent] &&
      t.out.map Record.modeKnown == [some true]) = true := by decide
/-- V-C1. -/
theorem test_mode02 : answers (exec (.mode02Adc24 (truthfulRest 0x03#8 (List.replicate 4 0xFF#8))) (holding [] none))
    (fun t => t.out == [⟨.data, ⟨hdr ++ [0x00#8, 0x04#8, 0x03#8, 0x02#8, 0xFF#8, 0xFF#8, 0xFF#8, 0xFF#8] ++ ftr ++
      [0x00#8, 0x00#8, 0x03#8, 0xFC#8], 24, 0x3FC#32, some ⟨4#16, 0x03#8, 0x02#8, 4, 4#16, false, 0x3FC#32, true⟩⟩,
      some true, .absent⟩]) = true := by decide
theorem test_mode03 : answers (exec (.mode03Struct adc) (holding [] none))
    (fun t => t.out == [recordOf ⟨none, []⟩ (restFrame 0x03#8 adc)] && t.presented == t.out) = true := by decide
/-- V-S2. -/
theorem test_mode04 : answers (exec (.mode04Adc12 adc) (holding [] none))
    (fun t => t.out == [⟨.data, ⟨f2, 22, 0x8C#32, some ⟨2#16, 0x01#8, 0x04#8, 2, 2#16, false, 0x8C#32, true⟩⟩, some true,
      .absent⟩]) = true := by decide
theorem test_mode05 : answers (exec (.mode05Adc12 adc) (holding [] none))
    (fun t => t.out == [recordOf ⟨none, []⟩ (restFrame 0x05#8 adc)]) = true := by decide
theorem test_mode07 : answers (exec (.mode07Adc12 adc) (holding [] none))
    (fun t => t.out == [recordOf ⟨none, []⟩ (restFrame 0x07#8 adc)]) = true := by decide
/-- V-D6. -/
theorem test_modeUnknown : answers
    (exec (.modeUnknown 0x06#8 (truthfulRest 0x09#8 [0x01#8, 0x02#8, 0x03#8])) (holding [] none))
    (fun t => t.out.map Record.modeKnown == [some false] && t.out.map Record.port == [.data] &&
      t.out.map (fun r => r.parsed.fields.map HeaderFields.valid) == [some true]) = true := by decide
/-- V-D4: clipped, yet known. -/
theorem test_csThermistorComplete : answers
    (exec (.csThermistorComplete ⟨9#16, 0x01#8, knownVector, 5#32⟩) (holding [] none))
    (fun t => t.out == [recordOf ⟨none, []⟩ (restFrame 0x00#8 ⟨9#16, 0x01#8, knownVector, 5#32⟩)] &&
      t.out.map (fun r => r.parsed.fields.map HeaderFields.incomplete) == [some true]) = true := by decide
/-- V-D2: empty useful data. -/
theorem test_csUnknown : answers (exec (.csUnknown (truthfulRest 0x01#8 [])) (holding [] none))
    (fun t => t.out.map Record.cs == [.unknown] && t.out.map csEvent == [⟨false, none, none⟩]) = true := by decide
/-- V-D3. -/
theorem test_csSkipped : answers (exec (.csSkipped (known 6#32)) (holding [] none))
    (fun t => t.out.map Record.cs == [.skipped] &&
      t.out.map (fun r => r.parsed.fields.map HeaderFields.valid) == [some false]) = true := by decide
/-- V-A1. -/
theorem test_append : answers (exec (.append [0x44#8]) (holding [0x50#8, 0x52#8] none))
    (fun t => t.acc == [0x50#8, 0x52#8, 0x44#8]) = true := by decide
/-- V-A2. -/
theorem test_consume : answers (exec (.consumePrefix 2) (holding [0xAA#8, 0xBB#8, 0xCC#8] none))
    (fun t => t.acc == [0xCC#8] && t.ret == .bytes [0xAA#8, 0xBB#8]) = true := by decide
/-- V-A3. -/
theorem test_drop : answers (exec (.dropPrefix 1) (holding [0xAA#8, 0xBB#8, 0xCC#8] none))
    (fun t => t.acc == [0xBB#8, 0xCC#8]) = true := by decide
/-- V-F1. -/
theorem test_find_lowest : answers
    (exec (.find ftr [0x01#8, 0x24#8, 0x24#8, 0x24#8, 0x24#8, 0x24#8] 0) (holding [] none))
    (fun t => t.ret == .offset (some 1)) = true := by decide
theorem test_find_start : answers (exec (.find hdr hdr 1) (holding [] none)) (fun t => t.ret == .offset none) = true := by
  decide
/-- V-F9. -/
theorem test_scanPass : answers (exec .scanPass (holding (0xAA#8 :: f2 ++ [0xBB#8]) none))
    (fun t => t.acc == [0xBB#8] && t.ret == .pass (.frame f2) && t.out == []) = true := by decide
/-- V-S4: two frames, in order. -/
theorem test_scan : answers (exec .scan (holding (f1 ++ f2) none))
    (fun t => t.acc == [] && t.out.map (fun r => r.parsed.raw) == [f1, f2] && t.ret == .scanned .needHeader) = true := by
  decide
/-- V-C3. -/
theorem test_parse_incomplete : answers
    (exec (.parse (restFrame 0x01#8 ⟨8#16, 0x01#8, [0x01#8, 0x02#8, 0x03#8], 6#32⟩)) (holding [] none))
    (fun t => t.ret == .parsed ⟨hdr ++ [0x00#8, 0x08#8, 0x01#8, 0x01#8, 0x01#8, 0x02#8, 0x03#8] ++ ftr ++
      [0x00#8, 0x00#8, 0x00#8, 0x06#8], 23, 6#32, some ⟨8#16, 0x01#8, 0x01#8, 3, 3#16, true, 6#32, true⟩⟩) = true := by
  decide
/-- V-C4, the second trailer. -/
theorem test_parse_surplus : answers
    (exec (.parse (restFrame 0x04#8 ⟨2#16, 0x01#8, [0x0C#8, 0x80#8, 0xFF#8, 0xFF#8], 0x28A#32⟩)) (holding [] none))
    (fun t => match t.ret with
      | .parsed p => p.fields == some ⟨2#16, 0x01#8, 0x04#8, 4, 2#16, false, 0x8C#32, false⟩
      | _ => false) = true := by decide
/-- R125, example. -/
theorem test_csum : answers (exec (.csum [0x0C#8, 0x80#8]) (holding [] none)) (fun t => t.ret == .sum 140#32) = true := by
  decide
/-- V-C7: all 32 bits are compared. -/
theorem test_verify : answers (exec (.verify 0x0000008C#32 0x0100008C#32) (holding [] none))
    (fun t => t.ret == .verdict false) = true := by decide
/-- R141, example. -/
theorem test_demux : answers (exec (.demux (parseFrame f2)) (holding [] none))
    (fun t => t.ret == .record ⟨.data, parseFrame f2, some true, .absent⟩) = true := by decide
theorem test_csDecode : answers (exec (.csDecode (parseFrame f1)) (holding [] none))
    (fun t => t.ret == .status (.known .thermistor .complete)) = true := by decide
/-- R143, example. -/
theorem test_csMatch : answers
    (exec (.csMatch [0x00#8, 0x02#8, 0x01#8, 0x00#8, 0x00#8, 0x00#8, 0x02#8, 0x01#8]) (holding [] none))
    (fun t => t.ret == .entry none) = true := by decide
theorem test_emit : answers (exec (.emit (recordOf ⟨none, []⟩ f2)) { holding [] none with out := [recordOf ⟨none, []⟩ f1] })
    (fun t => t.out == [recordOf ⟨none, []⟩ f1, recordOf ⟨none, []⟩ f2] && t.presented == [recordOf ⟨none, []⟩ f2]) =
      true := by decide
/-- V-S5, row 10. -/
theorem test_appendChunk : answers
    (exec (.appendChunk [0xA0#8, 0xA1#8, 0xA2#8, 0xA3#8, 0xA4#8, 0xA5#8, 0xA6#8, 0xA7#8, 0xA8#8, 0xA9#8])
      (holding [] none))
    (fun t => t.acc == [0xA3#8, 0xA4#8, 0xA5#8, 0xA6#8, 0xA7#8, 0xA8#8, 0xA9#8]) = true := by decide
/-- V-S5, row 10, byte by byte under a capacity. -/
theorem test_appendChunk_capped : answers
    (exec (.appendChunk [0xA0#8, 0xA1#8, 0xA2#8, 0xA3#8, 0xA4#8, 0xA5#8, 0xA6#8, 0xA7#8, 0xA8#8, 0xA9#8])
      (holding [] (some 0)))
    (fun t => t.acc == [0xA2#8, 0xA3#8, 0xA4#8, 0xA5#8, 0xA6#8, 0xA7#8, 0xA8#8, 0xA9#8]) = true := by decide
/-- A word of the opcode table is run as the first instruction after reset. -/
theorem test_step_push : answers (step (State.reset.withFetchWord 16 0x150))
    (fun t => t.acc == [0x50#8] && t.input == []) = true := by decide

/-! For every statement with hypotheses, a state and operands that meet all of them; for a statement of several clauses,
one for each, at the ends of its range. -/

/-- A header and 7 bytes: 15 in all. -/
def fifteen : List Byte := hdr ++ [0x01#8, 0x02#8, 0x03#8, 0x04#8, 0x05#8, 0x06#8, 0x07#8]

theorem test_witness_StepRunsDecodedInstruction :
    mayStep (State.reset.withFetchWord 16 0x150) = true ∧
      decode (fetched (State.reset.withFetchWord 16 0x150)) = .ok (.push 0x50#8) ∧
      (State.reset.withFetchWord 16 0x150).input = [.pins false 0x150#10] ∧
      State.reset.live = true ∧ State.reset.input = [] := ⟨rfl, rfl, rfl, rfl, rfl⟩

theorem test_witness_HostStepSelectsByPins :
    (∀ op : BitVec 2, { State.reset with input := [.pins false (cmdWord op 0xFF#8)] }.live = true ∧
      { State.reset with input := [.pins false (cmdWord op 0xFF#8)] }.input = [.pins false (cmdWord op 0xFF#8)] ∧
      (cmdWord op 0xFF#8).extractLsb' 8 2 = op) ∧
    (2#2 ≠ 3#2) ∧ { State.reset with input := [.pins true 0x3FF#10] }.input = [.pins true 0x3FF#10] := by
  refine ⟨fun op => ⟨rfl, rfl, ?_⟩, by decide, rfl⟩
  revert op; decide

theorem test_witness_OpcodeTableWordRuns : decodeTableWord 32 0x24242424 = some .ftr := by rfl

theorem test_witness_DecodeInvertsEncode :
    (wellFormed (.frame [] 0#32) = true ∧ encode (.frame [] 0#32) = some (.wire (frameBytes [] 0#32))) ∧
    (wellFormed (.mode07Adc12 adc) = true ∧ encode (.mode07Adc12 adc) = some (.modeByte (restFrame 0x07#8 adc))) ∧
    (wellFormed (.csThermistorComplete (known 5#32)) = true ∧
      encode (.csThermistorComplete (known 5#32)) = some (.csVector f1)) := by decide

theorem test_witness_EncodeInvertsDecode :
    decode (.pins false 0x3FF#10) = .ok (.rsvd3 0xFF#8) ∧
    decode (.csVector (restFrame 0x00#8 (known 6#32))) = .ok (.csSkipped (known 6#32)) := ⟨rfl, rfl⟩

theorem test_witness_NopLeavesEverything : atRest (holding fifteen none).acc = true := by decide

theorem test_witness_OnlyResetBeforeFirstReset :
    ({ holding fifteen none with live := false, input := [.pins true 0x3FF#10] }).live = false ∧
    ({ holding fifteen none with live := false, input := [.pins true 0x3FF#10] }).input = [.pins true 0x3FF#10] ∧
    rstPresented { holding fifteen none with live := false, input := [.pins false 0x100#10] } = false := by decide

theorem test_witness_PushAppendsThenScans :
    accCap (holding fifteen (some 0)).cfg ≠ some (holding fifteen (some 0)).acc.length ∧
    accCap (holding fifteen none).cfg ≠ some (holding fifteen none).acc.length ∧
    accCap (holding (fifteen ++ [0x08#8]) (some 0)).cfg = some (holding (fifteen ++ [0x08#8]) (some 0)).acc.length := by
  decide

/-- No header in 8 and in 9 bytes; a header and no footer; a footer and 0 or 3 bytes after it. -/
theorem test_witness_PushWithoutFrame :
    accCap (holding [] none).cfg ≠ some 7 ∧
    findPat hdr (List.replicate 7 0xA0#8 ++ [0xA7#8]) 0 = none ∧
    findPat hdr (List.replicate 8 0xA0#8 ++ [0xA8#8]) 0 = none ∧
    (findPat hdr (0xAA#8 :: f2.take 16 ++ [0x24#8]) 0 = some 1 ∧
      findPat ftr (0xAA#8 :: f2.take 16 ++ [0x24#8]) (1 + 8) = none) ∧
    (findPat hdr (f2.take 17 ++ [0x24#8]) 0 = some 0 ∧ findPat ftr (f2.take 17 ++ [0x24#8]) (0 + 8) = some 14 ∧
      (f2.take 17 ++ [0x24#8]).length < 14 + 8) ∧
    (findPat ftr (f2.take 20 ++ [0x00#8]) (0 + 8) = some 14 ∧ (f2.take 20 ++ [0x00#8]).length < 14 + 8) := by decide

theorem test_witness_PushCompletesFrame :
    accCap (holding (0xAA#8 :: f2.take 21) none).cfg ≠ some (holding (0xAA#8 :: f2.take 21) none).acc.length ∧
    findPat hdr ((holding (0xAA#8 :: f2.take 21) none).acc ++ [0x8C#8]) 0 = some 1 ∧
    findPat ftr ((holding (0xAA#8 :: f2.take 21) none).acc ++ [0x8C#8]) (1 + 8) = some 15 ∧
    ((holding (0xAA#8 :: f2.take 21) none).acc ++ [0x8C#8]).length = 15 + 8 := by decide

theorem test_witness_PushWhenFull :
    accCap (holding (fifteen ++ [0x08#8]) (some 0)).cfg = some (holding (fifteen ++ [0x08#8]) (some 0)).acc.length ∧
    atRest (holding (fifteen ++ [0x08#8]) (some 0)).acc = true := by decide

theorem test_witness_AtMostOneRecordPerPush :
    atRest (holding (fifteen ++ [0x08#8]) (some 0)).acc = true ∧ atRest (f2.take 21) = true ∧ atRest [] = true := by decide

theorem test_witness_HeaderRowSearches :
    findPat hdr (holding (List.replicate 8 0xA0#8) none).acc 0 = none ∧
    findPat hdr (holding (List.replicate 9 0xA0#8) none).acc 0 = none ∧
    findPat hdr (holding hdr none).acc 0 = some 0 := by decide

theorem test_witness_FooterRowSearches :
    (findPat hdr (holding (0xAA#8 :: hdr) none).acc 0 = some 1 ∧ findPat ftr (holding (0xAA#8 :: hdr) none).acc (1 + 8) = none) ∧
    (findPat hdr (holding (hdr ++ ftr) none).acc 0 = some 0 ∧ findPat ftr (holding (hdr ++ ftr) none).acc (0 + 8) = some 8) := by
  decide

theorem test_witness_ScanPassOutcomes :
    findPat hdr (holding [] none).acc 0 = none ∧
    findPat hdr (holding (List.replicate 8 0xA0#8) none).acc 0 = none ∧
    findPat hdr (holding (List.replicate 9 0xA0#8) none).acc 0 = none ∧
    (findPat hdr (holding hdr none).acc 0 = some 0 ∧ findPat ftr (holding hdr none).acc (0 + 8) = none) ∧
    (findPat ftr (holding (f2.take 21) none).acc (0 + 8) = some 14 ∧ (holding (f2.take 21) none).acc.length < 14 + 8) ∧
    (findPat hdr (holding f2 none).acc 0 = some 0 ∧ findPat ftr (holding f2 none).acc (0 + 8) = some 14 ∧
      14 + 8 ≤ (holding f2 none).acc.length) := by decide

theorem test_witness_ExtractedFrameIsCandidate :
    ∃ t, exec .scanPass (holding (0xAA#8 :: f2) none) = .next t ∧ t.ret = .pass (.frame f2) := ⟨_, rfl, by decide⟩

theorem test_witness_FirstFooterEndsFrame :
    framed [0x00#8] = true ∧
    (holding (frameBytes [0x00#8] 7#32 ++ [0x24#8]) none).acc = frameBytes [0x00#8] 7#32 ++ [0x24#8] := by decide

theorem test_witness_ScanRepeatsPasses :
    (∃ t, exec .scanPass (holding (f1 ++ f2) none) = .next t ∧ t.ret = .pass (.frame f1)) ∧
    (∃ t, exec .scanPass (holding [] none) = .next t ∧ t.ret = .pass (.noFrame .needHeader)) :=
  ⟨⟨_, rfl, by decide⟩, ⟨_, rfl, by decide⟩⟩

theorem test_witness_ScanIsIdempotent : ∃ t, exec .scan (holding (f1 ++ [0x50#8]) none) = .next t := ⟨_, rfl⟩

theorem test_witness_ScanPassesSuffice :
    (holding f2 none).acc.length / 16 + 1 ≤ 2 ∧
    ∃ t, exec .scanPass (holding (frameBytes [] 0#32) none) = .next t ∧ t.ret = .pass (.frame (frameBytes [] 0#32)) :=
  ⟨by decide, _, rfl, by decide⟩

theorem test_witness_FindReturnsLeastOffset : ([0x24#8] : List Byte) ≠ [] := by decide

theorem test_witness_HeadersNeverOverlap :
    slice (hdr ++ hdr) 0 (0 + 8) = hdr ∧ slice (hdr ++ hdr) 8 (8 + 8) = hdr ∧ 0 < 8 ∧
    slice (ftr ++ hdr ++ ftr) 4 (4 + 8) = hdr ∧ slice (ftr ++ hdr ++ ftr) 0 (0 + 4) = ftr ∧
    slice (ftr ++ hdr ++ ftr) 12 (12 + 4) = ftr := by decide

theorem test_witness_AppendWritesTheTail : 1 < (holding [0x50#8, 0x52#8] none).acc.length := by decide

theorem test_witness_ConsumeReturnsPrefix : 2 ≤ (holding [0xAA#8, 0xBB#8] none).acc.length := by decide
theorem test_witness_DropDiscardsPrefix : 0 ≤ (holding [] none).acc.length ∧ 2 ≤ (holding [0xAA#8, 0xBB#8] none).acc.length := by
  decide
theorem test_witness_RemovalBeyondTheEndIsClamped : (holding [0xAA#8, 0xBB#8] none).acc.length < 3 := by decide

theorem test_witness_AccIsStreamSuffix : ∃ t, exec (.push 0x09#8) (holding (fifteen ++ [0x08#8]) (some 0)) = .next t :=
  ⟨_, rfl⟩

theorem test_witness_BigEndianFields :
    0 + 2 ≤ (holding [0x01#8, 0x02#8] none).acc.length ∧ 4 + 4 ≤ (holding hdr none).acc.length ∧
    (holding hdr none).acc.length < 7 + 2 := by decide

theorem test_witness_ParseGivesFrameFields : ([0x00#8, 0x00#8, 0x01#8] : List Byte).length < 4 := by decide

theorem test_witness_ChecksumNeverReachesTopByte :
    ([0x0C#8, 0x80#8] : List Byte).length ≤ 65535 ∧ (List.replicate 65535 0xFF#8).length ≤ 65535 ∧
    (parseFrame f2).fields = some ⟨2#16, 0x01#8, 0x04#8, 2, 2#16, false, 0x8C#32, true⟩ := by
  refine ⟨by decide, by rw [List.length_replicate], by decide⟩

theorem test_witness_TrailerChangeInvalidates :
    framed (restPayload 0x04#8 adc) = true ∧ restValid adc = true ∧ 0x0100008C#32 ≠ adc.csum := by decide

theorem test_witness_DemuxRoutesByMode :
    (parseFrame (frameBytes [] 0#32)).fields = none ∧
    (parseFrame f1).fields = some ⟨8#16, 0x01#8, 0x00#8, 8, 8#16, false, 5#32, true⟩ ∧
    (parseFrame f2).fields = some ⟨2#16, 0x01#8, 0x04#8, 2, 2#16, false, 0x8C#32, true⟩ ∧ 0x04#8 ≠ 0x00#8 := by decide

theorem test_witness_StatusDecodeGate :
    (parseFrame (restFrame 0x00#8 (known 6#32))).fields = some ⟨8#16, 0x01#8, 0x00#8, 8, 8#16, false, 5#32, false⟩ ∧
    (parseFrame f1).fields = some ⟨8#16, 0x01#8, 0x00#8, 8, 8#16, false, 5#32, true⟩ ∧
    matchVector (holding [] none).cfg (slice f1 12 (12 + 8)) = some (.thermistor, .complete) ∧
    (parseFrame (frameOf 0x01#8 0x00#8 [])).fields = some ⟨0#16, 0x01#8, 0x00#8, 0, 0#16, false, 0#32, true⟩ ∧
    matchVector (holding [] none).cfg (slice (frameOf 0x01#8 0x00#8 []) 12 (12 + 0)) = none ∧
    (csEvent (demuxFrame ⟨none, []⟩ (parseFrame f1))).valid = true := by decide

theorem test_witness_MatchIsTableLookup :
    tableDistinct (holding [] none).cfg = true ∧ tableDistinct ⟨none, [⟨[], .radiative, .start⟩]⟩ = true := by decide

theorem test_witness_EventRaisedForKnownOnly :
    ((recordOf ⟨none, []⟩ f1).cs = .known .thermistor .complete ∧ (csEvent (recordOf ⟨none, []⟩ f2)).valid = false) ∧
    rstPresented { holding (f1.take 27) none with input := [.pins false 0x105#10] } = false ∧
    ∃ t, step { holding (f1.take 27) none with input := [.pins false 0x105#10] } = .next t :=
  ⟨by decide, rfl, _, rfl⟩

theorem test_witness_ModeRowsDeliver :
    modeKnownFlag 0x06#8 = false ∧ modeKnownFlag 0x08#8 = false ∧ modeKnownFlag 0xFF#8 = false := by decide

theorem test_witness_CommandStatusRowsDeliver :
    wellFormed (.csThermistorComplete (known 5#32)) = true ∧ wellFormed (.csSkipped (known 6#32)) = true ∧
    wellFormed (.csUnknown (truthfulRest 0x01#8 [])) = true ∧
    (∀ e ∈ csTable (holding [] none).cfg, e.vector ≠ restUseful (truthfulRest 0x01#8 [])) := by decide

theorem test_witness_ConditionsExclude :
    .e8Malformed ∈ recordConditions (recordOf ⟨none, []⟩ (frameBytes [] 0#32)) ∧
    .e7UnknownCommand ∈ recordConditions (recordOf ⟨none, []⟩ (frameOf 0x01#8 0x00#8 [])) := by decide

theorem test_witness_PureOperationsIgnoreState :
    isPure (.csMatch []) = true ∧ (holding [] none).cfg = (holding f1 none).cfg := by decide

theorem test_witness_OvfWrittenAsStated :
    (∃ t, exec (.push 0x09#8) (holding (fifteen ++ [0x08#8]) (some 0)) = .next t) ∧
    (∃ t, exec (.clear 0x00#8) (holding fifteen none) = .next t) ∧
    (∃ t, exec (.reset 0x000#10) (holding fifteen none) = .next t) ∧
    (accCap { holding [] none with ovf := true }.cfg = none ∧
      ∃ t, exec (.appendChunk []) { holding [] none with ovf := true } = .next t) ∧
    (∃ t, exec .scan (holding f2 none) = .next t) ∧
    (∀ b, Instr.scan ≠ .push b) ∧ (∀ c, Instr.scan ≠ .appendChunk c) ∧ (∀ d, Instr.scan ≠ .clear d) ∧
    (∀ w, Instr.scan ≠ .reset w) :=
  ⟨⟨_, rfl⟩, ⟨_, rfl⟩, ⟨_, rfl⟩, ⟨rfl, _, rfl⟩, ⟨_, rfl⟩, nofun, nofun, nofun, nofun⟩

theorem test_witness_OutOnlyGrows :
    (∀ w, Instr.push 0x05#8 ≠ .reset w) ∧ ∃ t, exec (.push 0x05#8) (holding (f1.take 27) none) = .next t :=
  ⟨nofun, _, rfl⟩

theorem test_witness_PresentedIsThisStep :
    rstPresented { holding (f1.take 27) none with input := [.pins false 0x105#10] } = false ∧
    (∃ t, step { holding (f1.take 27) none with input := [.pins false 0x105#10] } = .next t) ∧
    decode (fetched { holding [] none with input := [.pins false 0x200#10] }) = .ok (.clear 0x00#8) ∧
    (∃ t, step { holding [] none with input := [.pins false 0x200#10] } = .next t) :=
  ⟨rfl, ⟨_, rfl⟩, rfl, ⟨_, rfl⟩⟩

theorem test_witness_ParametersNeverWritten :
    (∃ t, exec (.push 0x05#8) (holding (f1.take 27) none) = .next t) ∧ (∀ w, Instr.push 0x05#8 ≠ .reset w) ∧
    (∃ t, step (State.reset.withFetchWord 8 0x01) = .next t) := ⟨⟨_, rfl⟩, nofun, ⟨_, rfl⟩⟩

theorem test_witness_StepKeepsInvariant :
    invariant { holding (f1.take 27) none with input := [.pins false 0x105#10] } = true ∧
    (∃ t, step { holding (f1.take 27) none with input := [.pins false 0x105#10] } = .next t) ∧
    invariant { holding (fifteen ++ [0x08#8]) (some 0) with input := [.pins false 0x109#10] } = true :=
  ⟨by decide, ⟨_, rfl⟩, by decide⟩

theorem test_witness_ChunkMeaning :
    accCap (holding [] none).cfg = none ∧ accCap (holding [] (some 0)).cfg = some 16 ∧
    ({ holding [] (some 0) with ovf := true }).ovf = true := by decide

theorem test_witness_ChunkBoundaryIndependence :
    accCap (holding (hdr.take 7) none).cfg = none ∧ atRest (holding (hdr.take 7) none).acc = true := by decide

/-- No useful data and 8 bytes of residue, with the least capacity; and some, with none. -/
theorem test_witness_WellFormedFrameRoundTrip :
    (([] : List Byte).length ≤ 65535 ∧ framed (restPayload 0x06#8 (truthfulRest 0x01#8 [])) = true ∧
      atRest (holding (List.replicate 8 0x50#8) (some 4)).acc = true ∧
      stPhase (holding (List.replicate 8 0x50#8) (some 4)) = .needHeader ∧
      ∀ n, accCap (holding (List.replicate 8 0x50#8) (some 4)).cfg = some n → 20 + ([] : List Byte).length ≤ n) ∧
    (([0x0C#8, 0x80#8] : List Byte).length ≤ 65535 ∧
      framed (restPayload 0x04#8 (truthfulRest 0x01#8 [0x0C#8, 0x80#8])) = true ∧
      atRest (holding [] none).acc = true ∧ stPhase (holding [] none) = .needHeader ∧
      ∀ n, accCap (holding [] none).cfg = some n → 20 + ([0x0C#8, 0x80#8] : List Byte).length ≤ n) := by
  refine ⟨⟨by decide, by decide, by decide, by decide, fun n h => ?_⟩, by decide, by decide, by decide, by decide,
    fun n h => ?_⟩
  · have : accCap (holding (List.replicate 8 0x50#8) (some 4)).cfg = some 20 := rfl
    rw [this] at h; cases h; decide
  · have : accCap (holding [] none).cfg = none := rfl
    rw [this] at h; cases h

theorem test_witness_FramesOfAChunkInOrder :
    accCap (holding [] none).cfg = none ∧ (holding [] none).acc = [] ∧
    (∀ x ∈ [(([] : List Byte), 0#32), ([0x01#8], 7#32)], framed x.1 = true) := by decide

/-- One record of each variant. -/
theorem test_witness_RecordVariantAsCondition :
    tableDistinct ⟨none, []⟩ = true ∧ tableDistinct ⟨none, [⟨[], .radiative, .start⟩]⟩ = true ∧
    variantOf (recordOf ⟨none, []⟩ (frameBytes [] 0#32)) = .malformed ∧
    variantOf (recordOf ⟨none, []⟩ f1) = .cmdStatusKnown .thermistor .complete ∧
    variantOf (recordOf ⟨none, []⟩ (frameOf 0x01#8 0x00#8 [])) = .cmdStatusUnknown ∧
    variantOf (recordOf ⟨none, [⟨[], .radiative, .start⟩]⟩ (frameOf 0x01#8 0x00#8 [])) = .cmdStatusKnown .radiative .start ∧
    variantOf (recordOf ⟨none, []⟩ (restFrame 0x00#8 (known 6#32))) = .cmdStatusInvalid ∧
    variantOf (recordOf ⟨none, []⟩ f2) = .data := by decide

end Sys2Proof.Tests
end

section
/-! PROOFS. The step: what it runs, on what state, and what it is when nothing is presented (R7, R160, R161). -/

namespace Sys2Proof.Machine

/-- After the first `RESET` every step exists (R201). -/
theorem mayStep_of_live {s : State} (hlive : s.live = true) : mayStep s = true := by
  rw [mayStep, hlive, Bool.true_or]

/-- A step that exists is the decoded instruction on the begun step (R7). -/
theorem step_of_decode {s : State} {i : Instr} (hmay : mayStep s = true) (hdec : decode (fetched s) = .ok i) :
    step s = exec i (beginStep s) := by
  rw [step, if_pos hmay, hdec]

/-- Where something is presented, beginning the step takes it from the input list (log 3). -/
theorem beginStep_of_input_cons {s : State} {w : Presented} {rest : List Presented} (hin : s.input = w :: rest) :
    beginStep s = { s with input := rest, presented := [], ret := .nothing } := by
  rw [beginStep, hin, List.tail_cons]

/-- Where nothing is presented, beginning the step leaves the input list as it is. -/
theorem beginStep_of_input_nil {s : State} (hin : s.input = []) :
    beginStep s = { s with presented := [], ret := .nothing } := by
  rw [beginStep, hin, List.tail_nil, ← hin]

/-- The canonical `NOP`, word 0x000 with `RST = 0` (R62, R161). -/
theorem decode_pins_zero : decode (.pins false 0x000#10) = .ok (.nop 0x00#8) := rfl

/-- `NOP` changes nothing (R161). -/
theorem exec_nop (d : Byte) (s : State) : exec (.nop d) s = .next s := rfl

/-- A step with nothing presented only ends what held for the last step (log 4). -/
theorem step_of_input_nil {s : State} (hlive : s.live = true) (hin : s.input = []) :
    step s = .next { s with presented := [], ret := .nothing } := by
  have hdec : decode (fetched s) = .ok (.nop 0x00#8) := by rw [fetched_nil hin, decode_pins_zero]
  calc step s = exec (.nop 0x00#8) (beginStep s) := step_of_decode (mayStep_of_live hlive) hdec
    _ = .next (beginStep s) := exec_nop _ _
    _ = .next { s with presented := [], ret := .nothing } := by rw [beginStep_of_input_nil hin]

/-- Settles O1: each clause is the lemma about `step`, `fetched` or `beginStep` that says it. -/
theorem stepRunsDecodedInstruction : Obligations.StepRunsDecodedInstruction := by
  unfold Obligations.StepRunsDecodedInstruction
  refine ⟨?decoded, ?taken, ?idle⟩
  case decoded => exact fun _ _ hmay hdec => step_of_decode hmay hdec
  case taken => exact fun _ _ _ hin => ⟨fetched_cons hin, beginStep_of_input_cons hin⟩
  case idle => exact fun _ hlive hin => step_of_input_nil hlive hin

end Sys2Proof.Machine
end

section
/-! PROOFS. The rest shapes of an accumulator (R28, R30) and what is found in its suffixes and prefixes (R101). -/

namespace Sys2Proof.Machine

open Sys2Proof.Config

/-- Searching from a later start moves the answer by as much. -/
theorem findFrom_add (pat sq : List Byte) (at0 n : Nat) :
    findFrom pat (at0 + n) sq = (findFrom pat at0 sq).map (· + n) := by
  induction sq generalizing at0 with
  | nil => unfold findFrom; split <;> rfl
  | cons b t ih =>
    unfold findFrom
    split
    · rfl
    · rw [← ih (at0 + 1), Nat.add_right_comm]

/-- What is found in `sq` from `n` on is found in `sq` without its first `n` bytes, `n` offsets earlier. -/
theorem findPat_add_start (pat sq : List Byte) (n start : Nat) :
    findPat pat sq (n + start) = (findPat pat (sq.drop n) start).map (· + n) := by
  unfold findPat
  rw [List.drop_drop, Nat.add_comm n start, findFrom_add]

/-- A pattern that stands nowhere stands nowhere in a suffix. -/
theorem findPat_drop_eq_none {pat sq : List Byte} (hp : pat ≠ []) (n : Nat) (h : findPat pat sq 0 = none) :
    findPat pat (sq.drop n) 0 = none := by
  rw [findPat_eq_none hp] at h ⊢
  intro j _
  rw [List.drop_drop]
  exact h (n + j) (Nat.zero_le _)

/-- A pattern that begins the sequence is found at offset 0. -/
theorem findPat_of_prefix {pat sq : List Byte} (hp : pat ≠ []) (h : pat <+: sq) : findPat pat sq 0 = some 0 :=
  (findPat_eq_some hp).mpr ⟨Nat.le_refl 0, h, fun _ _ hj => absurd hj (Nat.not_lt_zero _)⟩

/-- A match that lies inside the first `n` bytes is the match in them. -/
theorem findPat_take {pat sq : List Byte} {start i n : Nat} (hp : pat ≠ []) (h : findPat pat sq start = some i)
    (hn : i + pat.length ≤ n) : findPat pat (sq.take n) start = some i := by
  rw [findPat_eq_some hp] at h ⊢
  obtain ⟨hle, hpre, hmin⟩ := h
  refine ⟨hle, ?_, fun j hj hji hpj => hmin j hj hji (hpj.trans ?_)⟩
  · rw [List.drop_take]
    exact List.prefix_take_iff.mpr ⟨hpre, by omega⟩
  · rw [List.drop_take]
    exact List.take_prefix _ _

/-- The first 8 bytes are `HDR` exactly when the accumulator begins with it. -/
theorem take_eq_hdr_iff (acc : List Byte) : acc.take 8 = hdr ↔ hdr <+: acc := by
  rw [List.prefix_iff_eq_take, hdr_length, eq_comm]

/-- Without a header the phase is "need header" (R28). -/
theorem phaseOf_of_noHeader {acc : List Byte} (h : findPat hdr acc 0 = none) : phaseOf acc = .needHeader := by
  unfold phaseOf; rw [h]

/-- With the header at the front and no footer the phase is "need footer" (R28). -/
theorem phaseOf_of_noFooter {acc : List Byte} (hpre : hdr <+: acc) (h : findPat ftr acc 8 = none) :
    phaseOf acc = .needFooter := by
  unfold phaseOf
  rw [findPat_of_prefix hdr_ne_nil hpre]
  simp only [Nat.zero_add, h]

/-- With the header at the front and a footer the phase is "need trailer" (R28). -/
theorem phaseOf_of_footer {acc : List Byte} {f : Nat} (hpre : hdr <+: acc) (h : findPat ftr acc 8 = some f) :
    phaseOf acc = .needTrailer := by
  unfold phaseOf
  rw [findPat_of_prefix hdr_ne_nil hpre]
  simp only [Nat.zero_add, h]

/-- The table of R30 without the phases: at most 8 bytes and no header, or a header at the front and no whole frame. -/
theorem atRest_iff (acc : List Byte) :
    atRest acc = true ↔
      (findPat hdr acc 0 = none ∧ acc.length ≤ 8) ∨
      (hdr <+: acc ∧ ∀ f, findPat ftr acc 8 = some f → acc.length < f + 8) := by
  unfold atRest
  by_cases hpre : hdr <+: acc
  · have hfound := findPat_of_prefix hdr_ne_nil hpre
    have htake := (take_eq_hdr_iff acc).mpr hpre
    cases hf : findPat ftr acc 8 with
    | none =>
      rw [phaseOf_of_noFooter hpre hf]
      simp [restShape, hfound, htake, hf, hpre]
    | some f =>
      have hlen := (findPat_le_length ftr_ne_nil hf).2
      rw [phaseOf_of_footer hpre hf]
      simp only [ftr_length] at hlen
      simp [restShape, hfound, htake, hf, hpre, hlen]
  · have htake : acc.take 8 ≠ hdr := fun h => hpre ((take_eq_hdr_iff acc).mp h)
    cases hh : findPat hdr acc 0 with
    | none =>
      rw [phaseOf_of_noHeader hh]
      simp [restShape, hh, hpre]
    | some h =>
      cases hp : phaseOf acc <;> simp [restShape, hh, hpre, htake]

/-- The bytes from a first header to the end of the trailer are a candidate frame (R104). -/
theorem isCandidate_take {acc : List Byte} {f : Nat} (hpre : hdr <+: acc) (hf : findPat ftr acc 8 = some f)
    (hlen : f + 8 ≤ acc.length) : isCandidate (acc.take (f + 8)) = true := by
  have hhead : (acc.take (f + 8)).take 8 = hdr := by
    rw [List.take_take, Nat.min_eq_left (by omega), take_eq_hdr_iff]
    exact hpre
  have hfoot : findPat ftr (acc.take (f + 8)) 8 = some f := findPat_take ftr_ne_nil hf (by simp)
  have hsplit := splitFrame_eq_ok.mpr ⟨hhead, f, hfoot, by simp [hlen], rfl, rfl⟩
  unfold isCandidate
  rw [hsplit]

/-- The record of a candidate frame is coherent (R149). -/
theorem coherent_recordOf {f : List Byte} (c : Params) (h : isCandidate f = true) : coherent c (recordOf c f) = true := by
  simp [coherent, h]

end Sys2Proof.Machine
end

section
/-! PROOFS. What the operations do to the state, as one value: a change of `ACC`, `OVF` and the record ports. -/

namespace Sys2Proof.Machine

/-- What an operation does to the two pieces of state of the block (R20) and to its record ports: the accumulator it
leaves, whether it raises `OVF`, and the records it adds. -/
structure Delta where
  acc     : List Byte
  raise   : Bool
  records : List Record

/-- The state with the change made; all else stands. -/
def Delta.apply (d : Delta) (s : State) : State :=
  { s with acc := d.acc, ovf := s.ovf || d.raise, out := s.out ++ d.records, presented := s.presented ++ d.records }

@[simp] theorem Delta.apply_acc (d : Delta) (s : State) : (d.apply s).acc = d.acc := rfl
@[simp] theorem Delta.apply_ovf (d : Delta) (s : State) : (d.apply s).ovf = (s.ovf || d.raise) := rfl
@[simp] theorem Delta.apply_out (d : Delta) (s : State) : (d.apply s).out = s.out ++ d.records := rfl
@[simp] theorem Delta.apply_presented (d : Delta) (s : State) : (d.apply s).presented = s.presented ++ d.records := rfl
@[simp] theorem Delta.apply_live (d : Delta) (s : State) : (d.apply s).live = s.live := rfl
@[simp] theorem Delta.apply_cfg (d : Delta) (s : State) : (d.apply s).cfg = s.cfg := rfl
@[simp] theorem Delta.apply_input (d : Delta) (s : State) : (d.apply s).input = s.input := rfl

/-- A change of the accumulator alone. -/
theorem Delta.apply_of_acc (a : List Byte) (s : State) : Delta.apply ⟨a, false, []⟩ s = { s with acc := a } := by
  simp [Delta.apply]

/-- Two changes one after the other are one: the last accumulator, `OVF` raised by either, all the records. -/
theorem Delta.apply_apply (d e : Delta) (s : State) :
    e.apply (d.apply s) = Delta.apply ⟨e.acc, d.raise || e.raise, d.records ++ e.records⟩ s := by
  simp [Delta.apply, Bool.or_assoc]

end Sys2Proof.Machine
end

section
/-! PROOFS. The scanner: what one pass and a whole `SCAN` leave (R102 to R106). -/

namespace Sys2Proof.Machine

open Sys2Proof.Config

/-- A pass takes a candidate frame from the front part of `ACC`, or ends with a suffix of `ACC` at rest, for the reason
that the suffix gives (R28, R30). -/
theorem passOnce_spec (s : State) :
    (∃ f a, passOnce s = (.frame f, { s with acc := a }) ∧ isCandidate f = true ∧ a <:+ s.acc ∧
      a.length + 16 ≤ s.acc.length) ∨
    (∃ a, passOnce s = (.noFrame (phaseOf a), { s with acc := a }) ∧ atRest a = true ∧ a <:+ s.acc) := by
  have header_at {h : Nat} (hh : findPat hdr s.acc 0 = some h) : hdr <+: s.acc.drop h :=
    ((findPat_eq_some hdr_ne_nil).mp hh).2.1
  have footer_in {h f : Nat} (hf : findPat ftr s.acc (h + 8) = some f) :
      ∃ g, findPat ftr (s.acc.drop h) 8 = some g ∧ f = g + h := by
    rw [findPat_add_start] at hf
    obtain ⟨g, hg, rfl⟩ := Option.map_eq_some_iff.mp hf
    exact ⟨g, hg, rfl⟩
  rcases passOnce_cases s with ⟨hh, heq⟩ | ⟨h, hh, hf, heq⟩ | ⟨h, f, hh, hf, hlen, heq⟩ | ⟨h, f, hh, hf, hlen, heq⟩
  case inl =>
    right
    by_cases hl : s.acc.length > 8
    · rw [if_pos hl] at heq
      have hnone := findPat_drop_eq_none hdr_ne_nil (s.acc.length - 7) hh
      refine ⟨_, by rw [heq, phaseOf_of_noHeader hnone], ?_, List.drop_suffix _ _⟩
      exact (atRest_iff _).mpr (.inl ⟨hnone, by rw [List.length_drop]; omega⟩)
    · rw [if_neg hl] at heq
      refine ⟨_, by rw [heq, phaseOf_of_noHeader hh], ?_, List.suffix_rfl⟩
      exact (atRest_iff _).mpr (.inl ⟨hh, by omega⟩)
  case inr.inl =>
    right
    rw [findPat_add_start, Option.map_eq_none_iff] at hf
    refine ⟨_, by rw [heq, phaseOf_of_noFooter (header_at hh) hf], ?_, List.drop_suffix _ _⟩
    exact (atRest_iff _).mpr (.inr ⟨header_at hh, fun f hf' => by rw [hf] at hf'; cases hf'⟩)
  case inr.inr.inl =>
    right
    obtain ⟨g, hg, rfl⟩ := footer_in hf
    refine ⟨_, by rw [heq, phaseOf_of_footer (header_at hh) hg], ?_, List.drop_suffix _ _⟩
    refine (atRest_iff _).mpr (.inr ⟨header_at hh, fun f hf' => ?_⟩)
    rw [hg] at hf'
    cases hf'
    rw [List.length_drop]
    omega
  case inr.inr.inr =>
    left
    obtain ⟨g, hg, rfl⟩ := footer_in hf
    have hge := (findPat_le_length ftr_ne_nil hg).1
    have hcut : slice s.acc h (g + h + 8) = (s.acc.drop h).take (g + 8) := by
      unfold slice
      rw [List.drop_take]
      congr 1
      omega
    refine ⟨_, _, heq, ?_, List.drop_suffix _ _, by rw [List.length_drop]; omega⟩
    rw [hcut]
    exact isCandidate_take (header_at hh) hg (by rw [List.length_drop]; omega)

/-- With passes enough, the loop of `SCAN` ends with a suffix of `ACC` at rest, for the reason that the suffix gives,
and every record it adds is of a candidate frame (R105, R106). -/
theorem scanLoop_spec (n : Nat) (s : State) (hn : s.acc.length < 16 * n) :
    ∃ a rs, scanLoop n s = (phaseOf a, Delta.apply ⟨a, false, rs⟩ s) ∧ a <:+ s.acc ∧ atRest a = true ∧
      ∀ r ∈ rs, coherent s.cfg r = true := by
  induction n generalizing s with
  | zero => omega
  | succ n ih =>
    unfold scanLoop
    rcases passOnce_spec s with ⟨f, b, heq, hcand, hsuf, hlen⟩ | ⟨a, heq, hrest, hsuf⟩
    · obtain ⟨a, rs, hloop, hsuf', hrest, hrs⟩ := ih (emitRecord (recordOf s.cfg f) { s with acc := b })
        (by simp only [emitRecord_acc]; omega)
      refine ⟨a, recordOf s.cfg f :: rs, ?_, hsuf'.trans hsuf, hrest, ?_⟩
      · rw [heq]
        simp only [hloop]
        simp [Delta.apply, emitRecord]
      · exact List.forall_mem_cons.mpr ⟨coherent_recordOf s.cfg hcand, hrs⟩
    · exact ⟨a, [], by rw [heq, Delta.apply_of_acc], hsuf, hrest, by simp⟩

/-- `SCAN` from any state (R105): the passes of the model suffice (log 17). -/
theorem scanAll_spec (s : State) :
    ∃ a rs, scanAll s = (phaseOf a, Delta.apply ⟨a, false, rs⟩ s) ∧ a <:+ s.acc ∧ atRest a = true ∧
      ∀ r ∈ rs, coherent s.cfg r = true :=
  scanLoop_spec _ s (by omega)

/-- Settles O23: `scanAll_spec`, with the returned value recorded in `ret`. -/
theorem scanEndsAtRest : Obligations.ScanEndsAtRest := by
  unfold Obligations.ScanEndsAtRest
  intro s
  obtain ⟨a, rs, heq, -, hrest, -⟩ := scanAll_spec s
  refine ⟨setRet (.scanned (phaseOf a)) (Delta.apply ⟨a, false, rs⟩ s), ?_, rfl, hrest, List.prefix_append _ _, ?_⟩
  · have hexec : exec .scan s = .next (setRet (.scanned (scanAll s).1) (scanAll s).2) := rfl
    rw [hexec, heq]
  · simp [setRet, Delta.apply]

end Sys2Proof.Machine
end

section
/-! PROOFS. What an instruction can do, said once: a change of `ACC`, `OVF` and the record ports, or `CLEAR`, or
`RESET`. -/

namespace Sys2Proof.Machine

open Sys2Proof.Config

/-- A `PUSH` keeps at rest a suffix of the bytes that stand, less the oldest if `ACC` was full, and the new one (R162). -/
theorem pushByte_spec (b : Byte) (s : State) :
    ∃ a rs, pushByte b s = Delta.apply ⟨a, isFull s, rs⟩ s ∧ a <:+ s.acc.drop (isFull s).toNat ++ [b] ∧
      atRest a = true ∧ ∀ r ∈ rs, coherent s.cfg r = true := by
  unfold pushByte
  cases isFull s with
  | true =>
    obtain ⟨a, rs, heq, hsuf, hrest, hrs⟩ := scanAll_spec (appendBytes [b] (takeOverflow s))
    refine ⟨a, rs, ?_, hsuf, hrest, hrs⟩
    rw [if_pos rfl, heq]
    simp [Delta.apply, appendBytes, takeOverflow, dropFront]
  | false =>
    obtain ⟨a, rs, heq, hsuf, hrest, hrs⟩ := scanAll_spec (appendBytes [b] s)
    refine ⟨a, rs, ?_, hsuf, hrest, hrs⟩
    rw [if_neg Bool.false_ne_true, heq]
    rfl

theorem pushAll_nil (s : State) : pushAll [] s = s := rfl
theorem pushAll_cons (b : Byte) (c : List Byte) (s : State) : pushAll (b :: c) s = pushAll c (pushByte b s) := rfl

/-- A run of `PUSH` keeps a suffix of the bytes that stand and those that arrive. -/
theorem pushAll_delta (c : List Byte) (s : State) : ∃ d : Delta, pushAll c s = d.apply s ∧ d.acc <:+ s.acc ++ c := by
  induction c generalizing s with
  | nil => exact ⟨⟨s.acc, false, []⟩, by rw [pushAll_nil, Delta.apply_of_acc], by simp⟩
  | cons b c ih =>
    obtain ⟨a, rs, hpush, hsuf, -⟩ := pushByte_spec b s
    obtain ⟨e, hrun, hsuf'⟩ := ih (pushByte b s)
    rw [hpush] at hrun hsuf'
    refine ⟨⟨e.acc, isFull s || e.raise, rs ++ e.records⟩, by rw [pushAll_cons, hpush, hrun, Delta.apply_apply],
      hsuf'.trans ?_⟩
    calc a ++ c <:+ (s.acc.drop (isFull s).toNat ++ [b]) ++ c := List.suffix_append_self_iff.mpr hsuf
      _ = s.acc.drop (isFull s).toNat ++ (b :: c) := by simp
      _ <:+ s.acc ++ (b :: c) := List.suffix_append_self_iff.mpr (List.drop_suffix _ _)

/-- `APPEND` without a capacity is one append and one `SCAN`; it does not touch `OVF` (R166). -/
theorem appendAndScan_of_unbounded (c : List Byte) {s : State} (hcap : accCap s.cfg = none) :
    appendAndScan c s = (scanAll (appendBytes c s)).2 := if_pos hcap

/-- `APPEND` with a capacity is the run of `PUSH` (log 10). -/
theorem appendAndScan_of_bounded (c : List Byte) {s : State} (hcap : accCap s.cfg ≠ none) :
    appendAndScan c s = pushAll c s := if_neg hcap

/-- `APPEND` keeps a suffix of the bytes that stand and those that arrive, and can raise `OVF` with a capacity only. -/
theorem appendAndScan_delta (c : List Byte) (s : State) :
    ∃ d : Delta, appendAndScan c s = d.apply s ∧ d.acc <:+ s.acc ++ c ∧ (d.raise = true → accCap s.cfg ≠ none) := by
  by_cases hcap : accCap s.cfg = none
  · obtain ⟨a, rs, heq, hsuf, -⟩ := scanAll_spec (appendBytes c s)
    exact ⟨⟨a, false, rs⟩, by rw [appendAndScan_of_unbounded c hcap, heq]; rfl, hsuf, nofun⟩
  · obtain ⟨d, heq, hsuf⟩ := pushAll_delta c s
    exact ⟨d, by rw [appendAndScan_of_bounded c hcap, heq], hsuf, fun _ => hcap⟩

/-- The first step of a pass removes nothing of an accumulator at rest (R102, R30). -/
theorem headerSearch_cases (s : State) :
    (∃ n, headerSearch s = (none, dropFront n s) ∧ (atRest s.acc = true → n = 0)) ∨
    (∃ h, headerSearch s = (some h, s) ∧ (atRest s.acc = true → h = 0)) := by
  unfold headerSearch
  cases hh : findPat hdr s.acc 0 with
  | some h =>
    refine .inr ⟨h, rfl, fun hrest => ?_⟩
    rcases (atRest_iff _).mp hrest with ⟨hnone, -⟩ | ⟨hpre, -⟩
    · rw [hnone] at hh; cases hh
    · rw [findPat_of_prefix hdr_ne_nil hpre] at hh; cases hh; rfl
  | none =>
    left
    by_cases hlong : s.acc.length > hdrLen
    · refine ⟨_, by rw [if_pos hlong], fun hrest => ?_⟩
      rcases (atRest_iff _).mp hrest with ⟨-, hlen⟩ | ⟨hpre, -⟩
      · exact absurd hlen (Nat.not_le.mpr hlong)
      · rw [findPat_of_prefix hdr_ne_nil hpre] at hh; cases hh
    · exact ⟨0, by rw [if_neg hlong]; rfl, fun _ => rfl⟩

/-- The second step of a pass removes at most what precedes the header (R103). -/
theorem footerSearch_cases (h : Nat) (s : State) :
    footerSearch h s = (none, dropFront h s) ∨ ∃ f, footerSearch h s = (some f, s) := by
  unfold footerSearch
  cases findPat ftr s.acc (h + hdrLen) with
  | none => exact .inl rfl
  | some f => exact .inr ⟨f, rfl⟩

/-- The row `HDR` removes bytes at the front only, and nothing of an accumulator at rest. -/
theorem exec_hdr_drops (s : State) :
    ∃ n r, exec .hdr s = .next (setRet r (dropFront n s)) ∧ (atRest s.acc = true → n = 0) := by
  have hexec : exec .hdr s = execHdr s := rfl
  rw [hexec]
  unfold execHdr
  rcases headerSearch_cases s with ⟨n, heq, hn⟩ | ⟨h, heq, -⟩
  · exact ⟨n, _, by rw [heq], hn⟩
  · exact ⟨0, _, by rw [heq]; rfl, fun _ => rfl⟩

/-- The row `FTR` removes bytes at the front only, and nothing of an accumulator at rest. -/
theorem exec_ftr_drops (s : State) :
    ∃ n r, exec .ftr s = .next (setRet r (dropFront n s)) ∧ (atRest s.acc = true → n = 0) := by
  have hexec : exec .ftr s = execFtr s := rfl
  rw [hexec]
  unfold execFtr
  rcases headerSearch_cases s with ⟨n, heq, hn⟩ | ⟨h, heq, hh⟩
  · exact ⟨n, _, by rw [heq], hn⟩
  · simp only [heq]
    rcases footerSearch_cases h s with hfoot | ⟨f, hfoot⟩
    · exact ⟨h, _, by rw [hfoot], hh⟩
    · exact ⟨0, _, by rw [hfoot]; rfl, fun _ => rfl⟩

/-- The instructions that can raise `OVF`: `PUSH`, and `APPEND` where it is a run of `PUSH` (R25, log 10). -/
def CanRaiseOvf (i : Instr) (p : Params) : Prop :=
  (∃ b, i = .push b) ∨ (∃ c, i = .appendChunk c ∧ accCap p ≠ none)

/-- What `RESET` leaves (R165). -/
def resetState (s : State) : State :=
  { clearState s with out := [], presented := [], live := true, ret := .nothing }

/-- `i` takes `s` to `t` by a change that keeps in `ACC` a suffix of what stood there and what arrived (R21, R95). -/
def ChangesBy (i : Instr) (s t : State) : Prop :=
  ∃ (d : Delta) (r : Ret), t = setRet r (d.apply s) ∧ d.acc <:+ s.acc ++ arrived i ∧
    (d.raise = true → CanRaiseOvf i s.cfg)

/-- An operation that brings no bytes and writes the accumulator and the returned value only. -/
theorem ChangesBy.of_acc {i : Instr} {s : State} {a : List Byte} (r : Ret) (harr : arrived i = []) (hsuf : a <:+ s.acc) :
    ChangesBy i s (setRet r { s with acc := a }) :=
  ⟨⟨a, false, []⟩, r, by rw [Delta.apply_of_acc], by rw [harr, List.append_nil]; exact hsuf, nofun⟩

/-- An operation that returns a value and writes nothing else. -/
theorem ChangesBy.of_ret {i : Instr} {s : State} (r : Ret) (harr : arrived i = []) : ChangesBy i s (setRet r s) :=
  .of_acc r harr List.suffix_rfl

/-- An operation that removes bytes at the front only. -/
theorem ChangesBy.of_drop {i : Instr} {s : State} (n : Nat) (r : Ret) (harr : arrived i = []) :
    ChangesBy i s (setRet r (dropFront n s)) :=
  .of_acc r harr (List.drop_suffix _ _)

/-- An operation that emits one record. -/
theorem ChangesBy.of_emit {i : Instr} {s : State} (rec : Record) (harr : arrived i = []) :
    ChangesBy i s (emitRecord rec s) :=
  ⟨⟨s.acc, false, [rec]⟩, s.ret, by simp [setRet, Delta.apply, emitRecord], by simp [harr], nofun⟩

/-- Whatever answers a next state made a change of `ACC`, `OVF` and the record ports, or is `CLEAR` or `RESET`. -/
theorem exec_cases {i : Instr} {s t : State} (h : exec i s = .next t) :
    ChangesBy i s t ∨ (∃ d, i = .clear d ∧ t = clearState s) ∨ (∃ w, i = .reset w ∧ t = resetState s) := by
  cases i
  case rsvd3 => cases h
  case clear d => cases h; exact .inr (.inl ⟨d, rfl, rfl⟩)
  case reset w => cases h; exact .inr (.inr ⟨w, rfl, rfl⟩)
  case push b =>
    cases h
    obtain ⟨a, rs, heq, hsuf, -⟩ := pushByte_spec b s
    refine .inl ⟨⟨a, isFull s, rs⟩, s.ret, heq, hsuf.trans ?_, fun _ => .inl ⟨b, rfl⟩⟩
    exact List.suffix_append_self_iff.mpr (List.drop_suffix _ _)
  case appendChunk c =>
    cases h
    obtain ⟨d, heq, hsuf, hraise⟩ := appendAndScan_delta c s
    exact .inl ⟨d, s.ret, heq, hsuf, fun hr => .inr ⟨c, rfl, hraise hr⟩⟩
  case append c =>
    cases h
    exact .inl ⟨⟨s.acc ++ c, false, []⟩, s.ret, by rw [Delta.apply_of_acc]; rfl, List.suffix_rfl, nofun⟩
  case hdr =>
    obtain ⟨n, r, heq, -⟩ := exec_hdr_drops s
    cases heq.symm.trans h
    exact .inl (.of_drop n r rfl)
  case ftr =>
    obtain ⟨n, r, heq, -⟩ := exec_ftr_drops s
    cases heq.symm.trans h
    exact .inl (.of_drop n r rfl)
  case scanPass =>
    cases h
    left
    rcases passOnce_spec s with ⟨f, a, heq, -, hsuf, -⟩ | ⟨a, heq, -, hsuf⟩ <;> rw [heq] <;> exact .of_acc _ rfl hsuf
  case scan =>
    cases h
    obtain ⟨a, rs, heq, hsuf, -⟩ := scanAll_spec s
    exact .inl ⟨⟨a, false, rs⟩, _, by rw [heq], by simpa [arrived] using hsuf, nofun⟩
  case consumePrefix n => cases h; exact .inl (.of_drop n _ rfl)
  case dropPrefix n => cases h; exact .inl (.of_drop n s.ret rfl)
  case nop => cases h; exact .inl (.of_ret s.ret rfl)
  case find | parse | csum | verify | demux | csDecode | csMatch => cases h; exact .inl (.of_ret _ rfl)
  case frame | mode00CmdStatus | mode01Adc24 | mode02Adc24 | mode03Struct | mode04Adc12 | mode05Adc12 | mode07Adc12 |
      modeUnknown | csThermistorComplete | csUnknown | csSkipped | emit =>
    cases h; exact .inl (.of_emit _ rfl)

/-- Settles O32: a change keeps a suffix of what stood and what arrived; `CLEAR` and `RESET` leave nothing. -/
theorem accIsStreamSuffix : Obligations.AccIsStreamSuffix := by
  unfold Obligations.AccIsStreamSuffix
  intro i s t h
  rcases exec_cases h with ⟨d, r, rfl, hsuf, -⟩ | ⟨_, -, rfl⟩ | ⟨_, -, rfl⟩
  · exact hsuf
  · exact List.nil_suffix
  · exact List.nil_suffix

/-- What a step that answers has run (R7). -/
theorem step_eq_next {s t : State} (h : step s = .next t) :
    ∃ i, mayStep s = true ∧ decode (fetched s) = .ok i ∧ exec i (beginStep s) = .next t := by
  unfold step at h
  split at h
  case isFalse => cases h
  case isTrue hmay =>
    split at h
    case h_1 => cases h
    case h_2 i hdec => exact ⟨i, hmay, hdec, h⟩

/-- The constants and the input are written by no instruction (R33). -/
theorem exec_keeps_cfg_input {i : Instr} {s t : State} (h : exec i s = .next t) : t.cfg = s.cfg ∧ t.input = s.input := by
  rcases exec_cases h with ⟨d, r, rfl, -⟩ | ⟨_, -, rfl⟩ | ⟨_, -, rfl⟩ <;> exact ⟨rfl, rfl⟩

/-- Only `RESET` makes the state specified (R201). -/
theorem exec_keeps_live {i : Instr} {s t : State} (h : exec i s = .next t) (hi : ∀ w, i ≠ .reset w) : t.live = s.live := by
  rcases exec_cases h with ⟨d, r, rfl, -⟩ | ⟨_, -, rfl⟩ | ⟨w, hreset, -⟩
  · rfl
  · rfl
  · exact absurd hreset (hi w)

/-- Settles O53: a step is an instruction on the begun step, and `exec_cases` says what an instruction writes. -/
theorem parametersNeverWritten : Obligations.ParametersNeverWritten := by
  unfold Obligations.ParametersNeverWritten
  refine ⟨fun i s t h => ?instr, fun s t h => ?step⟩
  case instr =>
    obtain ⟨hcfg, hinput⟩ := exec_keeps_cfg_input h
    exact ⟨hcfg, hinput, exec_keeps_live h⟩
  case step =>
    obtain ⟨i, -, -, hexec⟩ := step_eq_next h
    exact (exec_keeps_cfg_input hexec).1

end Sys2Proof.Machine
end

section
/-! PROOFS. `OVF` (R25): which operations write it, and that none reads it. -/

namespace Sys2Proof.Machine

open Sys2Proof.Config

/-- The state with another `OVF`. -/
def setOvf (o : Bool) (s : State) : State := { s with ovf := o }

@[simp] theorem setOvf_acc (o : Bool) (s : State) : (setOvf o s).acc = s.acc := rfl
@[simp] theorem setOvf_cfg (o : Bool) (s : State) : (setOvf o s).cfg = s.cfg := rfl

/-! Each shared operation commutes with setting `OVF`: it neither reads it nor, but for `PUSH` of a full accumulator,
writes it. -/

theorem headerSearch_setOvf (o : Bool) (s : State) :
    headerSearch (setOvf o s) = ((headerSearch s).1, setOvf o (headerSearch s).2) := by
  unfold headerSearch
  rw [setOvf_acc]
  cases findPat hdr s.acc 0 with
  | none => dsimp only; split <;> rfl
  | some h => rfl

theorem footerSearch_setOvf (h : Nat) (o : Bool) (s : State) :
    footerSearch h (setOvf o s) = ((footerSearch h s).1, setOvf o (footerSearch h s).2) := by
  unfold footerSearch
  rw [setOvf_acc]
  cases findPat ftr s.acc (h + hdrLen) <;> rfl

theorem trailerCheck_setOvf (h f : Nat) (o : Bool) (s : State) :
    trailerCheck h f (setOvf o s) = ((trailerCheck h f s).1, setOvf o (trailerCheck h f s).2) := by
  unfold trailerCheck
  rw [setOvf_acc]
  split <;> rfl

theorem passOnce_setOvf (o : Bool) (s : State) : passOnce (setOvf o s) = ((passOnce s).1, setOvf o (passOnce s).2) := by
  unfold passOnce
  rw [headerSearch_setOvf]
  rcases headerSearch s with ⟨_ | h, s1⟩
  · rfl
  · dsimp only
    rw [footerSearch_setOvf]
    rcases footerSearch h s1 with ⟨_ | f, s2⟩
    · rfl
    · exact trailerCheck_setOvf h f o s2

theorem scanLoop_setOvf (n : Nat) (o : Bool) (s : State) :
    scanLoop n (setOvf o s) = ((scanLoop n s).1, setOvf o (scanLoop n s).2) := by
  induction n generalizing s with
  | zero => rfl
  | succ n ih =>
    unfold scanLoop
    rw [passOnce_setOvf]
    rcases passOnce s with ⟨f | why, s1⟩
    · exact ih (emitRecord (recordOf s1.cfg f) s1)
    · rfl

theorem scanAll_setOvf (o : Bool) (s : State) : scanAll (setOvf o s) = ((scanAll s).1, setOvf o (scanAll s).2) :=
  scanLoop_setOvf _ o s

/-- `PUSH` does the same to everything but `OVF`, whatever `OVF` was. -/
theorem pushByte_setOvf (b : Byte) (o : Bool) (s : State) : ∃ o', pushByte b (setOvf o s) = setOvf o' (pushByte b s) := by
  have hfull : isFull (setOvf o s) = isFull s := rfl
  unfold pushByte
  rw [hfull]
  cases isFull s with
  | true => exact ⟨true, congrArg Prod.snd (scanAll_setOvf true (appendBytes [b] (takeOverflow s)))⟩
  | false => exact ⟨o, congrArg Prod.snd (scanAll_setOvf o (appendBytes [b] s))⟩

theorem pushAll_setOvf (c : List Byte) (o : Bool) (s : State) : ∃ o', pushAll c (setOvf o s) = setOvf o' (pushAll c s) := by
  induction c generalizing o s with
  | nil => exact ⟨o, rfl⟩
  | cons b c ih =>
    obtain ⟨o1, hpush⟩ := pushByte_setOvf b o s
    obtain ⟨o2, hrun⟩ := ih o1 (pushByte b s)
    exact ⟨o2, by rw [pushAll_cons, pushAll_cons, hpush, hrun]⟩

theorem appendAndScan_setOvf (c : List Byte) (o : Bool) (s : State) :
    ∃ o', appendAndScan c (setOvf o s) = setOvf o' (appendAndScan c s) := by
  by_cases hcap : accCap s.cfg = none
  · have hcap' : accCap (setOvf o s).cfg = none := hcap
    rw [appendAndScan_of_unbounded c hcap, appendAndScan_of_unbounded c hcap']
    exact ⟨o, congrArg Prod.snd (scanAll_setOvf o (appendBytes c s))⟩
  · have hcap' : accCap (setOvf o s).cfg ≠ none := hcap
    rw [appendAndScan_of_bounded c hcap, appendAndScan_of_bounded c hcap']
    exact pushAll_setOvf c o s

theorem execHdr_setOvf {s t : State} (o : Bool) (h : execHdr s = .next t) :
    execHdr (setOvf o s) = .next (setOvf o t) := by
  revert h
  unfold execHdr
  rw [headerSearch_setOvf]
  rcases headerSearch s with ⟨_ | k, s1⟩ <;> rintro ⟨⟩ <;> rfl

theorem execFtr_setOvf {s t : State} (o : Bool) (h : execFtr s = .next t) :
    execFtr (setOvf o s) = .next (setOvf o t) := by
  revert h
  unfold execFtr
  rw [headerSearch_setOvf]
  rcases headerSearch s with ⟨_ | k, s1⟩
  · rintro ⟨⟩; rfl
  · dsimp only
    rw [footerSearch_setOvf]
    rcases footerSearch k s1 with ⟨_ | f, s2⟩ <;> rintro ⟨⟩ <;> rfl

/-- No instruction reads `OVF` (R25): from another `OVF` it answers the same state but for `OVF`. -/
theorem exec_setOvf {i : Instr} {s t : State} (o : Bool) (h : exec i s = .next t) :
    ∃ o', exec i (setOvf o s) = .next (setOvf o' t) := by
  have next_congr {u v : State} (heq : u = v) : (.next u : Host.Outcome State Fault Refusal) = .next v := by rw [heq]
  cases i
  case rsvd3 => cases h
  case clear | reset => cases h; exact ⟨false, rfl⟩
  case push b => cases h; exact (pushByte_setOvf b o s).imp fun _ heq => next_congr heq
  case appendChunk c => cases h; exact (appendAndScan_setOvf c o s).imp fun _ heq => next_congr heq
  case hdr => exact ⟨o, execHdr_setOvf o h⟩
  case ftr => exact ⟨o, execFtr_setOvf o h⟩
  case scanPass =>
    cases h
    refine ⟨o, next_congr ?_⟩
    rw [passOnce_setOvf]
    rfl
  case scan =>
    cases h
    refine ⟨o, next_congr ?_⟩
    rw [scanAll_setOvf]
    rfl
  case nop | frame | mode00CmdStatus | mode01Adc24 | mode02Adc24 | mode03Struct | mode04Adc12 | mode05Adc12 |
      mode07Adc12 | modeUnknown | csThermistorComplete | csUnknown | csSkipped | append | consumePrefix | dropPrefix |
      find | parse | csum | verify | demux | csDecode | csMatch | emit =>
    cases h; exact ⟨o, rfl⟩

/-- `PUSH` raises `OVF` exactly when it finds `ACC` full (R162, R169). -/
theorem pushByte_ovf (b : Byte) (s : State) :
    (pushByte b s).ovf = true ↔ s.ovf = true ∨ accCap s.cfg = some s.acc.length := by
  obtain ⟨a, rs, heq, -⟩ := pushByte_spec b s
  rw [heq, Delta.apply_ovf, Bool.or_eq_true, isFull_iff]

/-- What cannot raise `OVF` and is neither `CLEAR` nor `RESET` leaves it as it was. -/
theorem exec_keeps_ovf {i : Instr} {s t : State} (h : exec i s = .next t) (hraise : ¬ CanRaiseOvf i s.cfg)
    (hclear : ∀ d, i ≠ .clear d) (hreset : ∀ w, i ≠ .reset w) : t.ovf = s.ovf := by
  rcases exec_cases h with ⟨d, r, rfl, -, hd⟩ | ⟨d, hi, -⟩ | ⟨w, hi, -⟩
  · rw [setRet_ovf, Delta.apply_ovf, Bool.eq_false_iff.mpr (mt hd hraise), Bool.or_false]
  · exact absurd hi (hclear d)
  · exact absurd hi (hreset w)

/-- Settles O50: each clause is the lemma of its operation; `exec_setOvf` says that `OVF` is not read. -/
theorem ovfWrittenAsStated : Obligations.OvfWrittenAsStated := by
  unfold Obligations.OvfWrittenAsStated
  refine ⟨?push, ?clear, ?reset, ?chunk, ?others, ?unread, fun _ => rfl⟩
  case push => intro b s t h; cases h; exact pushByte_ovf b s
  case clear => intro d s t h; cases h; rfl
  case reset => intro w s t h; cases h; rfl
  case chunk =>
    intro c s t hcap h
    refine exec_keeps_ovf h ?_ nofun nofun
    rintro (⟨b, hi⟩ | ⟨c, -, hne⟩)
    · cases hi
    · exact hne hcap
  case others =>
    intro i s t hpush hchunk hclear hreset h
    refine exec_keeps_ovf h ?_ hclear hreset
    rintro (⟨b, hi⟩ | ⟨c, hi, -⟩)
    · exact hpush b hi
    · exact hchunk c hi
  case unread => exact fun _ _ _ o h => exec_setOvf o h

end Sys2Proof.Machine
end

section
/-! PROOFS. Frames: the big-endian fields (R42), the layout (R64, R67), and the record of a frame that has its
PacketHeader fields. -/

namespace Sys2Proof.Machine

open Sys2Proof.Config

/-- The two bytes of a half-word spell it (R42). -/
@[simp] theorem be16_enc16 (v : BitVec 16) : be16 (enc16 v) = v := by
  apply BitVec.eq_of_toNat_eq
  have := v.isLt
  simp [be16, enc16, beNat, BitVec.extractLsb'_toNat, Nat.shiftRight_eq_div_pow]
  omega

/-- The four bytes of a word spell it (R42). -/
@[simp] theorem be32_enc32 (v : BitVec 32) : be32 (enc32 v) = v := by
  apply BitVec.eq_of_toNat_eq
  have := v.isLt
  simp [be32, enc32, beNat, BitVec.extractLsb'_toNat, Nat.shiftRight_eq_div_pow]
  omega

/-- Two bytes are those of the half-word they spell. -/
theorem enc16_be16 (a b : Byte) : enc16 (be16 [a, b]) = [a, b] := by
  have ha := a.isLt
  have hb := b.isLt
  simp only [enc16, be16, beNat, List.foldl_cons, List.foldl_nil, List.cons.injEq, and_true]
  refine ⟨?_, ?_⟩ <;> apply BitVec.eq_of_toNat_eq <;>
    simp [BitVec.extractLsb'_toNat, Nat.shiftRight_eq_div_pow] <;> omega

/-- Four bytes are those of the word they spell. -/
theorem enc32_be32 {l : List Byte} (h : l.length = 4) : enc32 (be32 l) = l := by
  match l, h with
  | [a, b, c, d], _ =>
    have ha := a.isLt
    have hb := b.isLt
    have hc := c.isLt
    have hd := d.isLt
    simp only [enc32, be32, beNat, List.foldl_cons, List.foldl_nil, List.cons.injEq, and_true]
    refine ⟨?_, ?_, ?_, ?_⟩ <;> apply BitVec.eq_of_toNat_eq <;>
      simp [BitVec.extractLsb'_toNat, Nat.shiftRight_eq_div_pow] <;> omega

/-- A candidate frame is the layout of its payload and its trailer (R64, R104). -/
theorem frameBytes_of_splitFrame {f payload : List Byte} {c : Checksum} (h : splitFrame f = .ok (payload, c)) :
    frameBytes payload c = f := by
  obtain ⟨hhead, i, hfind, hlen, rfl, rfl⟩ := splitFrame_eq_ok.mp h
  obtain ⟨hi, ⟨rest, hfoot⟩, -⟩ := (findPat_eq_some ftr_ne_nil).mp hfind
  have htrailer : f.drop (i + 4) = rest := by
    rw [← List.drop_drop, ← hfoot]
    exact List.drop_left' rfl
  have hrest : rest.length = 4 := by
    rw [← htrailer, List.length_drop]
    omega
  unfold frameBytes
  calc hdr ++ slice f 8 i ++ ftr ++ enc32 (be32 (f.drop (i + 4)))
      = (f.take i).take 8 ++ (f.take i).drop 8 ++ (ftr ++ rest) := by
        rw [htrailer, enc32_be32 hrest, List.take_take, Nat.min_eq_left hi, hhead, List.append_assoc _ ftr]
        rfl
    _ = f := by rw [List.take_append_drop, hfoot, List.take_append_drop]

/-- What splits into payload and trailer is a candidate frame. -/
theorem isCandidate_of_splitFrame {f : List Byte} {x : List Byte × Checksum} (h : splitFrame f = .ok x) :
    isCandidate f = true := by
  unfold isCandidate
  rw [h]

/-- A frame that splits at its parse-mode byte is a candidate frame, and is the layout of its parts (R67). -/
theorem splitMode_eq_ok {f : List Byte} {mode : Byte} {r : FrameRest} (h : splitMode f = .ok (mode, r)) :
    isCandidate f = true ∧ restFrame mode r = f := by
  unfold splitMode at h
  split at h
  case h_1 => cases h
  case h_2 payload c hsplit =>
    refine ⟨isCandidate_of_splitFrame hsplit, ?_⟩
    split at h
    case h_2 => cases h
    case h_1 l1 l0 dev m body =>
      cases h
      rw [← frameBytes_of_splitFrame hsplit]
      simp [restFrame, restPayload, enc16_be16]

/-- `PARSE` of such a frame finds the fields it is made of (R121, R123). -/
theorem parseFrame_restFrame_fields (mode : Byte) (r : FrameRest) :
    (parseFrame (restFrame mode r)).fields = some (headerFields r.len r.dev mode r.body r.csum) := by
  have hpayload : slice (restFrame mode r) 8 ((restFrame mode r).length - 8) =
      r.len.extractLsb' 8 8 :: r.len.extractLsb' 0 8 :: r.dev :: mode :: r.body :=
    slice_frameBytes_payload (restPayload mode r) r.csum
  have htrailer : (restFrame mode r).drop ((restFrame mode r).length - 4) = enc32 r.csum :=
    drop_frameBytes_trailer (restPayload mode r) r.csum
  unfold parseFrame
  rw [hpayload, htrailer, be32_enc32]
  exact congrArg (fun len => some (headerFields len r.dev mode r.body r.csum)) (be16_enc16 r.len)

/-- `ULEN` is the declared length, clipped to the bytes present; no bits are lost (R124). -/
theorem headerFields_ulen (len : BitVec 16) (dev mode : Byte) (rest : List Byte) (rx : Checksum) :
    (headerFields len dev mode rest rx).ulen.toNat = min len.toNat rest.length := by
  have := len.isLt
  simp only [headerFields, BitVec.toNat_ofNat]
  omega

/-- The useful data `PARSE` sums up is the body clipped to the declared length (R124). -/
theorem take_ulen_eq_restUseful (mode : Byte) (r : FrameRest) :
    r.body.take (headerFields r.len r.dev mode r.body r.csum).ulen.toNat = restUseful r := by
  rw [headerFields_ulen, restUseful, ← List.take_eq_take_min]

/-- `VALID` of such a frame (R127). -/
theorem headerFields_valid (mode : Byte) (r : FrameRest) :
    (headerFields r.len r.dev mode r.body r.csum).valid = restValid r :=
  congrArg (fun u => verifyFlag (checksum u) r.csum) (take_ulen_eq_restUseful mode r)

/-- The view `RAW[12 : 12 + ULEN]` of such a frame is its useful data (R74, R124). -/
theorem slice_restFrame_useful (mode : Byte) (r : FrameRest) :
    slice (restFrame mode r) 12 (12 + (headerFields r.len r.dev mode r.body r.csum).ulen.toNat) = restUseful r := by
  have hdrop : (restFrame mode r).drop 12 = r.body ++ (ftr ++ enc32 r.csum) := by
    simp [restFrame, frameBytes, restPayload, enc16, hdr]
  have hle : (headerFields r.len r.dev mode r.body r.csum).ulen.toNat ≤ r.body.length := by
    rw [headerFields_ulen]
    exact Nat.min_le_right _ _
  unfold slice
  rw [List.drop_take, Nat.add_sub_cancel_left, hdrop, List.take_append_of_le_length hle, take_ulen_eq_restUseful]

/-- `CS_DECODE` of such a frame: a lookup of its useful data if it is valid (R142). -/
theorem decodeStatus_restFrame (p : Params) (mode : Byte) (r : FrameRest) :
    decodeStatus p (parseFrame (restFrame mode r)) =
      if restValid r then lookupResult (matchVector p (restUseful r)) else .skipped := by
  unfold decodeStatus
  rw [parseFrame_restFrame_fields]
  dsimp only
  rw [headerFields_valid, parseFrame_raw, slice_restFrame_useful]

/-- The record of a frame with a mode byte other than 0x00 (R141, R146). -/
theorem recordOf_restFrame_data (p : Params) {mode : Byte} (r : FrameRest) (hmode : mode ≠ 0x00#8) :
    recordOf p (restFrame mode r) = ⟨.data, parseFrame (restFrame mode r), some (modeKnownFlag mode), .absent⟩ := by
  unfold recordOf demuxFrame
  rw [parseFrame_restFrame_fields]
  exact if_neg hmode

/-- The record of a mode-0x00 frame (R141). -/
theorem recordOf_restFrame_status (p : Params) (r : FrameRest) :
    recordOf p (restFrame 0x00#8 r) =
      ⟨.cs, parseFrame (restFrame 0x00#8 r), some true, decodeStatus p (parseFrame (restFrame 0x00#8 r))⟩ := by
  unfold recordOf demuxFrame
  rw [parseFrame_restFrame_fields]
  rfl

/-- The known vector is found in every `CS_TABLE`: its entry is the first (R73). -/
theorem matchVector_knownVector (p : Params) : matchVector p knownVector = some (.thermistor, .complete) := rfl

end Sys2Proof.Machine
end

section
/-! PROOFS. The rows of the wire format, decoded: each delivers the record of the frame presented (R105, log 7). -/

namespace Sys2Proof.Machine

open Sys2Proof.Config

/-- The bytes are a candidate frame, and the instruction emits its record and does nothing else. -/
def DeliversRecordOf (f : List Byte) (i : Instr) : Prop :=
  isCandidate f = true ∧ ∀ s, exec i s = .next (emitRecord (recordOf s.cfg f) s)

/-- Delivery on the DATA port is the emission of the frame's record (R146). -/
theorem deliverData_eq_emit {mode : Byte} {known : Bool} (hmode : mode ≠ 0x00#8) (hknown : modeKnownFlag mode = known)
    (r : FrameRest) (s : State) : deliverData known mode r s = emitRecord (recordOf s.cfg (restFrame mode r)) s := by
  rw [recordOf_restFrame_data s.cfg r hmode, hknown]
  rfl

/-- Delivery on the CS port of the result that `CS_DECODE` gives is the emission of the frame's record (R142). -/
theorem deliverStatus_eq_emit {c : CsResult} {r : FrameRest} {s : State}
    (hc : c = if restValid r then lookupResult (matchVector s.cfg (restUseful r)) else .skipped) :
    deliverStatus c r s = emitRecord (recordOf s.cfg (restFrame 0x00#8 r)) s := by
  rw [recordOf_restFrame_status, decodeStatus_restFrame, ← hc]
  rfl

/-- The row that the parse-mode map gives delivers the frame's record (R71, R146). -/
theorem exec_modeRow (mode : Byte) (r : FrameRest) (s : State) :
    exec (modeRow mode r) s = .next (emitRecord (recordOf s.cfg (restFrame mode r)) s) := by
  have data {m : Byte} {known : Bool} (hm : m ≠ 0x00#8) (hknown : modeKnownFlag m = known) :
      Host.Outcome.next (deliverData known m r s) =
        (.next (emitRecord (recordOf s.cfg (restFrame m r)) s) : Host.Outcome State Fault Refusal) := by
    rw [deliverData_eq_emit hm hknown]
  unfold modeRow
  split_ifs with h0 h1 h2 h3 h4 h5 h7
  case pos => subst h0; exact congrArg Host.Outcome.next (deliverStatus_eq_emit (decodeStatus_restFrame s.cfg 0x00#8 r))
  case neg =>
    refine data h0 ?_
    simp [modeKnownFlag, modeKnownSet, h0, h1, h2, h3, h4, h5, h7]
  all_goals subst_vars; exact data (by decide) (by decide)

/-- The command-status row that a mode-0x00 frame gives delivers the frame's record (R142 to R145). -/
theorem exec_statusRow (r : FrameRest) (s : State) :
    exec (statusRow r) s = .next (emitRecord (recordOf s.cfg (restFrame 0x00#8 r)) s) := by
  unfold statusRow
  split_ifs with hvalid hknown
  · refine congrArg Host.Outcome.next (deliverStatus_eq_emit ?_)
    rw [if_pos hvalid, hknown, matchVector_knownVector]
    rfl
  · exact congrArg Host.Outcome.next (deliverStatus_eq_emit (if_pos hvalid).symm)
  · exact congrArg Host.Outcome.next (deliverStatus_eq_emit (if_neg hvalid).symm)

theorem delivers_of_decodeWire {f : List Byte} {i : Instr} (h : decodeWire f = .ok i) : DeliversRecordOf f i := by
  unfold decodeWire at h
  split at h
  case h_1 => cases h
  case h_2 payload c hsplit =>
    cases h
    refine ⟨isCandidate_of_splitFrame hsplit, fun s => ?_⟩
    rw [← frameBytes_of_splitFrame hsplit]
    rfl

theorem delivers_of_decodeMode {f : List Byte} {i : Instr} (h : decodeMode f = .ok i) : DeliversRecordOf f i := by
  unfold decodeMode at h
  split at h
  case h_1 => cases h
  case h_2 mode r hsplit =>
    cases h
    obtain ⟨hcand, rfl⟩ := splitMode_eq_ok hsplit
    exact ⟨hcand, exec_modeRow mode r⟩

theorem delivers_of_decodeStatusFrame {f : List Byte} {i : Instr} (h : decodeStatusFrame f = .ok i) :
    DeliversRecordOf f i := by
  unfold decodeStatusFrame at h
  split at h
  case h_1 => cases h
  case h_2 mode r hsplit =>
    obtain ⟨hcand, rfl⟩ := splitMode_eq_ok hsplit
    split at h
    case isFalse => cases h
    case isTrue hmode =>
      cases h
      subst hmode
      exact ⟨hcand, exec_statusRow r⟩

end Sys2Proof.Machine
end

section
/-! PROOFS. The invariant (R20, R21, R30, R149): what it says of a live state, and that every operation a step can run
keeps it. -/

namespace Sys2Proof.Machine

open Sys2Proof.Config

/-- Every record in `OUT` and on the ports is of a candidate frame, and a function of it and the constants (R149). -/
def RecordsCoherent (s : State) : Prop :=
  (∀ r ∈ s.out, coherent s.cfg r = true) ∧ ∀ r ∈ s.presented, coherent s.cfg r = true

/-- The part of the invariant that speaks of the state once it is specified. -/
structure LiveSound (s : State) : Prop where
  rest    : atRest s.acc = true
  cap     : withinCap s = true
  records : RecordsCoherent s

/-- The invariant: the constants, and a sound state once it is specified. -/
theorem invariant_iff (s : State) :
    invariant s = true ↔ tableDistinct s.cfg = true ∧ (s.live = true → LiveSound s) := by
  unfold invariant
  rw [Bool.and_eq_true]
  refine and_congr_right fun _ => ?_
  cases s.live with
  | false => simp
  | true =>
    simp only [Bool.not_true, Bool.false_or, Bool.and_eq_true, List.all_eq_true, forall_const]
    exact ⟨fun ⟨⟨⟨hrest, hcap⟩, hout⟩, hpres⟩ => ⟨hrest, hcap, hout, hpres⟩,
      fun ⟨hrest, hcap, hout, hpres⟩ => ⟨⟨⟨hrest, hcap⟩, hout⟩, hpres⟩⟩

/-- What R20 and R21 ask of the capacity: none and `OVF` is 0 for ever, or one and `ACC` is within it. -/
theorem withinCap_iff (s : State) :
    withinCap s = true ↔
      (accCap s.cfg = none → s.ovf = false) ∧ ∀ n, accCap s.cfg = some n → s.acc.length ≤ n := by
  unfold withinCap
  cases accCap s.cfg <;> simp

theorem atRest_nil : atRest [] = true := by decide

/-- Records of candidate frames may be added (R149). -/
theorem RecordsCoherent.apply {s : State} {d : Delta} (h : RecordsCoherent s)
    (hd : ∀ r ∈ d.records, coherent s.cfg r = true) : RecordsCoherent (d.apply s) :=
  ⟨fun r hr => (List.mem_append.mp hr).elim (h.1 r) (hd r), fun r hr => (List.mem_append.mp hr).elim (h.2 r) (hd r)⟩

theorem LiveSound.setRet {s : State} (r : Ret) (h : LiveSound s) : LiveSound (setRet r s) :=
  ⟨h.rest, h.cap, h.records⟩

theorem LiveSound.beginStep {s : State} (h : LiveSound s) : LiveSound (beginStep s) :=
  ⟨h.rest, h.cap, h.records.1, by simp⟩

/-- An empty accumulator with `OVF = 0` is within every capacity. -/
theorem withinCap_of_empty {s : State} (hacc : s.acc = []) (hovf : s.ovf = false) : withinCap s = true :=
  (withinCap_iff s).mpr ⟨fun _ => hovf, fun n _ => by simp [hacc]⟩

theorem LiveSound.clearState {s : State} (h : LiveSound s) : LiveSound (clearState s) :=
  ⟨atRest_nil, withinCap_of_empty rfl rfl, h.records⟩

/-- `RESET` makes the state sound, whatever it was (R165, R200). -/
theorem liveSound_resetState (s : State) : LiveSound (resetState s) :=
  ⟨atRest_nil, withinCap_of_empty rfl rfl, by simp [resetState], by simp [resetState]⟩

/-- The record of a candidate frame may be emitted (R105). -/
theorem LiveSound.emit {s : State} {f : List Byte} (h : LiveSound s) (hf : isCandidate f = true) :
    LiveSound (emitRecord (recordOf s.cfg f) s) := by
  have hnew : ∀ r ∈ [recordOf s.cfg f], coherent s.cfg r = true := by simp [coherent_recordOf s.cfg hf]
  have hout := h.records.apply (d := ⟨s.acc, false, [recordOf s.cfg f]⟩) hnew
  exact ⟨h.rest, h.cap, hout⟩

/-- Without a capacity no accumulator is full (R162). -/
theorem isFull_of_unbounded {s : State} (hcap : accCap s.cfg = none) : isFull s = false :=
  Bool.eq_false_iff.mpr fun hfull => by
    rw [(isFull_iff s).mp hfull] at hcap
    cases hcap

/-- Less its oldest byte if it is full, an accumulator within its capacity has room for one more (R162, R169). -/
theorem length_drop_lt_cap {s : State} {n : Nat} (hcap : accCap s.cfg = some n) (hle : s.acc.length ≤ n) :
    (s.acc.drop (isFull s).toNat).length < n := by
  rw [List.length_drop]
  cases hfull : isFull s with
  | true =>
    have hlen : 16 ≤ s.acc.length := by
      unfold isFull at hfull
      exact of_decide_eq_true (Bool.and_eq_true_iff.mp hfull).1
    rw [Bool.toNat_true]
    omega
  | false =>
    have hne : s.acc.length ≠ n := by
      rintro rfl
      rw [(isFull_iff s).mpr hcap] at hfull
      cases hfull
    rw [Bool.toNat_false]
    omega

/-- A `PUSH` stays within the capacity: a full accumulator drops a byte for the one that arrives (R169). -/
theorem LiveSound.pushByte {s : State} (b : Byte) (h : LiveSound s) : LiveSound (pushByte b s) := by
  obtain ⟨a, rs, heq, hsuf, hrest, hrs⟩ := pushByte_spec b s
  obtain ⟨hunbounded, hbounded⟩ := (withinCap_iff s).mp h.cap
  rw [heq]
  refine ⟨hrest, (withinCap_iff _).mpr ⟨fun hnone => ?_, fun n hn => ?_⟩, h.records.apply hrs⟩
  · rw [Delta.apply_cfg] at hnone
    rw [Delta.apply_ovf, hunbounded hnone, isFull_of_unbounded hnone, Bool.or_false]
  · rw [Delta.apply_cfg] at hn
    calc a.length ≤ (s.acc.drop (isFull s).toNat ++ [b]).length := hsuf.length_le
      _ = (s.acc.drop (isFull s).toNat).length + 1 := by rw [List.length_append, List.length_singleton]
      _ ≤ n := length_drop_lt_cap hn (hbounded n hn)

theorem LiveSound.pushAll {s : State} (c : List Byte) (h : LiveSound s) : LiveSound (pushAll c s) := by
  induction c generalizing s with
  | nil => exact h
  | cons b c ih => exact ih (h.pushByte b)

theorem LiveSound.appendAndScan {s : State} (c : List Byte) (h : LiveSound s) : LiveSound (appendAndScan c s) := by
  by_cases hcap : accCap s.cfg = none
  · obtain ⟨a, rs, heq, -, hrest, hrs⟩ := scanAll_spec (appendBytes c s)
    rw [appendAndScan_of_unbounded c hcap, heq]
    refine ⟨hrest, (withinCap_iff _).mpr ⟨fun _ => ?_, fun n hn => ?_⟩, RecordsCoherent.apply h.records hrs⟩
    · simp [((withinCap_iff s).mp h.cap).1 hcap]
    · cases hcap.symm.trans hn
  · rw [appendAndScan_of_bounded c hcap]
    exact h.pushAll c

/-- The rows `HDR` and `FTR` change nothing of a sound state but the returned value: `ACC` is at rest. -/
theorem LiveSound.of_drops {i : Instr} {s t : State} (h : LiveSound s)
    (hdrops : ∃ n r, exec i s = .next (Machine.setRet r (dropFront n s)) ∧ (atRest s.acc = true → n = 0))
    (ht : exec i s = .next t) : LiveSound t := by
  obtain ⟨n, r, heq, hn⟩ := hdrops
  cases heq.symm.trans ht
  rw [hn h.rest]
  exact h.setRet r

/-- A row that delivers the record of a candidate frame keeps a state sound. -/
theorem LiveSound.of_delivers {i : Instr} {f : List Byte} {s t : State} (h : LiveSound s) (hi : DeliversRecordOf f i)
    (ht : exec i s = .next t) : LiveSound t := by
  obtain ⟨hcand, hexec⟩ := hi
  cases (hexec s).symm.trans ht
  exact h.emit hcand

/-- The instructions that the pins select (R160). -/
theorem LiveSound.of_pins {rst : Bool} {inw : CmdWord} {s t : State} (h : LiveSound s)
    (ht : exec (decodePins rst inw) s = .next t) : LiveSound t := by
  unfold decodePins at ht
  dsimp only at ht
  split_ifs at ht
  · cases ht; exact liveSound_resetState s
  · cases ht; exact h
  · cases ht; exact h.pushByte _
  · cases ht; exact h.clearState
  · cases ht

/-- Whatever is presented, the instruction it decodes to keeps a live state sound. -/
theorem LiveSound.of_decode {w : Presented} {i : Instr} {s t : State} (h : LiveSound s) (hdec : decode w = .ok i)
    (ht : exec i s = .next t) : LiveSound t := by
  cases w
  case pins rst inw => cases hdec; exact h.of_pins ht
  case sync bytes =>
    change decodeSync bytes = .ok i at hdec
    unfold decodeSync at hdec
    split_ifs at hdec
    · cases hdec; exact h.of_drops (exec_hdr_drops s) ht
    · cases hdec; exact h.of_drops (exec_ftr_drops s) ht
  case wire bytes => exact h.of_delivers (delivers_of_decodeWire hdec) ht
  case modeByte bytes => exact h.of_delivers (delivers_of_decodeMode hdec) ht
  case csVector bytes => exact h.of_delivers (delivers_of_decodeStatusFrame hdec) ht
  case chunk bytes => cases hdec; cases ht; exact h.appendAndScan bytes

/-- What steps before the first `RESET` is `RESET` (R201). -/
theorem decode_of_rstPresented {s : State} (h : rstPresented s = true) :
    ∃ inw, decode (fetched s) = .ok (.reset inw) := by
  unfold rstPresented at h
  cases hw : fetched s with
  | pins rst inw =>
    rw [hw] at h
    dsimp only at h
    subst h
    exact ⟨inw, rfl⟩
  | sync | wire | modeByte | csVector | chunk => rw [hw] at h; cases h

/-- Every step ends in a sound state: a live one stays sound, and any other steps by `RESET` alone. -/
theorem step_liveSound {s t : State} (hs : s.live = true → LiveSound s) (h : step s = .next t) : LiveSound t := by
  obtain ⟨i, hmay, hdec, hexec⟩ := step_eq_next h
  cases hlive : s.live with
  | true => exact (hs hlive).beginStep.of_decode hdec hexec
  | false =>
    rw [mayStep, hlive, Bool.false_or] at hmay
    obtain ⟨inw, hreset⟩ := decode_of_rstPresented hmay
    cases hreset.symm.trans hdec
    cases hexec
    exact liveSound_resetState _

/-- Settles O54: the constants stand (`parametersNeverWritten`), and the rest is `step_liveSound`. -/
theorem stepKeepsInvariant : Obligations.StepKeepsInvariant := by
  unfold Obligations.StepKeepsInvariant
  intro s t hinv hstep
  obtain ⟨htable, hsound⟩ := (invariant_iff s).mp hinv
  have hcfg : t.cfg = s.cfg := parametersNeverWritten.2 s t hstep
  exact (invariant_iff t).mpr ⟨by rw [hcfg]; exact htable, fun _ => step_liveSound hsound hstep⟩

/-- The vectors of the implementation's `CS_TABLE` are distinct, whatever its open part lists (R73). -/
theorem tableDistinct_params : tableDistinct params = true := by
  obtain ⟨hnodup, hunseen⟩ := distinctEntries_nodup [knownVector] csEntries
  refine decide_eq_true (List.nodup_cons.mpr ⟨fun hmem => ?_, hnodup⟩)
  obtain ⟨e, he, hv⟩ := List.mem_map.mp hmem
  exact hunseen e he (List.mem_singleton.mpr hv)

/-- Settles O55: `CS_TABLE` is made distinct, and the state after reset is what `RESET` leaves. -/
theorem resetMeetsInvariant : Obligations.ResetMeetsInvariant := by
  unfold Obligations.ResetMeetsInvariant
  exact (invariant_iff _).mpr ⟨tableDistinct_params, fun _ => liveSound_resetState State.reset⟩

end Sys2Proof.Machine
end

section
/-! PROOFS. Big-endian numbers (R42, R69): the value of a byte sequence, and `MemRead` on `ACC` (R13). -/

namespace Sys2Proof.Machine

open Sys2Proof.Config

/-- One more byte at the higher offset is the least significant one (R42). -/
theorem beNat_append_singleton (l : List Byte) (b : Byte) : beNat (l ++ [b]) = beNat l * 256 + b.toNat := by
  simp [beNat]

/-- `n` bytes spell a number below `256 ^ n`. -/
theorem beNat_lt (l : List Byte) : beNat l < 256 ^ l.length := by
  induction l using List.reverseRecOn with
  | nil => decide
  | append_singleton l b ih =>
    have hb := b.isLt
    rw [beNat_append_singleton, List.length_append, List.length_singleton, Nat.pow_succ]
    omega

/-- Two bytes spell a number of 16 bits: none of it is lost. -/
theorem toNat_be16 {l : List Byte} (hlen : l.length = 2) : (be16 l).toNat = beNat l := by
  have hlt := beNat_lt l
  rw [hlen] at hlt
  exact Nat.mod_eq_of_lt hlt

/-- Four bytes spell a number of 32 bits: none of it is lost. -/
theorem toNat_be32 {l : List Byte} (hlen : l.length = 4) : (be32 l).toNat = beNat l := by
  have hlt := beNat_lt l
  rw [hlen] at hlt
  exact Nat.mod_eq_of_lt hlt

/-- A slice that lies inside the sequence has its full length (R12). -/
theorem length_slice {sq : List Byte} {a n : Nat} (h : a + n ≤ sq.length) : (slice sq a (a + n)).length = n := by
  rw [slice, List.length_drop, List.length_take, Nat.min_eq_left h, Nat.add_sub_cancel_left]

/-- `MemRead` inside `ACC` is the big-endian value of the bytes there (R13, R42). -/
theorem memRead_of_le {s : State} {a n : Nat} (h : a + n ≤ s.acc.length) :
    memRead s a n = some (beNat (slice s.acc a (a + n))) := if_pos h

/-- `MemRead` beyond `ACC` has no value (R13, log 13). -/
theorem memRead_of_lt {s : State} {a n : Nat} (h : s.acc.length < a + n) : memRead s a n = none :=
  if_neg (Nat.not_le.mpr h)

/-- Settles O33: each clause is the lemma about `be16`, `be32` or `memRead` that says it. -/
theorem bigEndianFields : Obligations.BigEndianFields := by
  unfold Obligations.BigEndianFields
  refine ⟨fun a b => ?half, fun a b c d => ?word, be16_enc16, be32_enc32, fun s a h => ?read2, fun s a h => ?read4,
    fun _ _ _ h => memRead_of_lt h⟩
  case half => rw [toNat_be16 rfl]; simp [beNat]
  case word => rw [toNat_be32 rfl]; simp only [beNat, List.foldl_cons, List.foldl_nil]; omega
  case read2 => rw [memRead_of_le h, toNat_be16 (length_slice h)]
  case read4 => rw [memRead_of_le h, toNat_be32 (length_slice h)]

end Sys2Proof.Machine
end

section
/-! PROOFS. The chunk law (R53, R166, R212): what the scanner extracts is a function of the stream of bytes, however the
stream is cut. -/

namespace Sys2Proof.Machine

open Sys2Proof.Config

/-- A pattern that ends inside the first part of a sequence begins there what is left of that part. -/
theorem prefix_drop_of_append {pat x w : List Byte} {j : Nat} (hj : j + pat.length ≤ x.length)
    (h : pat <+: (x ++ w).drop j) : pat <+: x.drop j := by
  rw [List.drop_append_of_le_length (by omega)] at h
  exact List.prefix_of_prefix_length_le h (List.prefix_append _ w) (by rw [List.length_drop]; omega)

/-- Bytes that arrive later do not change what `FIND` has found (R101). -/
theorem findPat_append {pat x : List Byte} {start i : Nat} (hp : pat ≠ []) (h : findPat pat x start = some i)
    (w : List Byte) : findPat pat (x ++ w) start = some i := by
  have hin := (findPat_le_length hp h).2
  obtain ⟨hle, hpre, hmin⟩ := (findPat_eq_some hp).mp h
  refine (findPat_eq_some hp).mpr ⟨hle, ?_, fun j hj hji hpj => hmin j hj hji ?_⟩
  · rw [List.drop_append_of_le_length (by omega)]
    exact hpre.trans (List.prefix_append _ w)
  · exact prefix_drop_of_append (by omega) hpj

/-- Bytes before which nothing is found move what is found by their number (R101). -/
theorem findPat_drop {pat x : List Byte} {k : Nat} (hp : pat ≠ []) (hclear : ∀ j < k, ¬ pat <+: x.drop j) :
    findPat pat x 0 = (findPat pat (x.drop k) 0).map (· + k) := by
  have hshift := findPat_add_start pat x k 0
  rw [← hshift]
  cases hfind : findPat pat x (k + 0) with
  | none =>
    rw [findPat_eq_none hp] at hfind ⊢
    intro j _
    by_cases hj : j < k
    · exact hclear j hj
    · exact hfind j (by omega)
  | some i =>
    obtain ⟨hle, hpre, hmin⟩ := (findPat_eq_some hp).mp hfind
    refine (findPat_eq_some hp).mpr ⟨Nat.zero_le _, hpre, fun j _ hji => ?_⟩
    by_cases hj : j < k
    · exact hclear j hj
    · exact hmin j (by omega) hji

/-- What a stream gives by the rules R102 to R105: its frames in order, and the bytes from an unfinished frame's header
on, which are none where no header has come. -/
inductive Extracts : List Byte → List (List Byte) → List Byte → Prop
  | noHeader {x : List Byte} (hh : findPat hdr x 0 = none) : Extracts x [] []
  | unfinished {x : List Byte} {h : Nat} (hh : findPat hdr x 0 = some h)
      (hf : ∀ f, findPat ftr (x.drop h) 8 = some f → (x.drop h).length < f + 8) : Extracts x [] (x.drop h)
  | frame {x : List Byte} {h f : Nat} {fs : List (List Byte)} {r : List Byte} (hh : findPat hdr x 0 = some h)
      (hf : findPat ftr (x.drop h) 8 = some f) (hlen : f + 8 ≤ (x.drop h).length)
      (hrest : Extracts ((x.drop h).drop (f + 8)) fs r) : Extracts x ((x.drop h).take (f + 8) :: fs) r

/-- A stream gives one thing only. -/
theorem Extracts.unique {x : List Byte} {fs gs : List (List Byte)} {r q : List Byte} (h1 : Extracts x fs r)
    (h2 : Extracts x gs q) : fs = gs ∧ r = q := by
  induction h1 generalizing gs q with
  | noHeader hh =>
    cases h2 with
    | noHeader => exact ⟨rfl, rfl⟩
    | unfinished hh' | frame hh' => cases hh.symm.trans hh'
  | unfinished hh hf =>
    cases h2 with
    | noHeader hh' => cases hh.symm.trans hh'
    | unfinished hh' => cases hh.symm.trans hh'; exact ⟨rfl, rfl⟩
    | frame hh' hf' hlen =>
      cases hh.symm.trans hh'
      exact absurd (hf _ hf') (Nat.not_lt.mpr hlen)
  | frame hh hf hlen _ ih =>
    cases h2 with
    | noHeader hh' => cases hh.symm.trans hh'
    | unfinished hh' hf' =>
      cases hh.symm.trans hh'
      exact absurd (hf' _ hf) (Nat.not_lt.mpr hlen)
    | frame hh' hf' _ hrest =>
      cases hh.symm.trans hh'
      cases hf.symm.trans hf'
      obtain ⟨rfl, rfl⟩ := ih hrest
      exact ⟨rfl, rfl⟩

/-- Bytes at the front at which no header begins can be dropped (R102). -/
theorem Extracts.of_drop {x : List Byte} {k : Nat} {fs : List (List Byte)} {r : List Byte}
    (hclear : ∀ j < k, ¬ hdr <+: x.drop j) (hext : Extracts (x.drop k) fs r) : Extracts x fs r := by
  have hshift := findPat_drop hdr_ne_nil hclear
  have hdrop (h : Nat) : (x.drop k).drop h = x.drop (h + k) := by rw [List.drop_drop, Nat.add_comm]
  cases hext with
  | noHeader hh => exact .noHeader (by rw [hshift, hh]; rfl)
  | unfinished hh hf =>
    rw [hh] at hshift
    rw [hdrop] at hf ⊢
    exact .unfinished hshift hf
  | frame hh hf hlen hrest =>
    rw [hh] at hshift
    rw [hdrop] at hf hlen hrest ⊢
    exact .frame hshift hf hlen hrest

/-- Whatever arrives, the stream `x` gives the frames `fs` and then what `a` in its place gives. -/
def Reduces (x : List Byte) (fs : List (List Byte)) (a : List Byte) : Prop :=
  ∀ w gs r, Extracts (a ++ w) gs r → Extracts (x ++ w) (fs ++ gs) r

theorem Reduces.refl (x : List Byte) : Reduces x [] x := fun _ _ _ hext => hext

theorem Reduces.trans {x y z : List Byte} {fs gs : List (List Byte)} (h1 : Reduces x fs y) (h2 : Reduces y gs z) :
    Reduces x (fs ++ gs) z := by
  intro w es r hext
  rw [List.append_assoc]
  exact h1 _ _ _ (h2 _ _ _ hext)

/-- Bytes that have arrived already may be counted in. -/
theorem Reduces.append {x y : List Byte} {fs : List (List Byte)} (h : Reduces x fs y) (c : List Byte) :
    Reduces (x ++ c) fs (y ++ c) := by
  intro w gs r hext
  rw [List.append_assoc] at hext ⊢
  exact h _ _ _ hext

/-- Bytes at the front may go where no header begins, nor could begin with bytes still to come (R102). -/
theorem Reduces.of_drop {x : List Byte} {k : Nat} (hk : k ≤ x.length)
    (hclear : ∀ (w : List Byte), ∀ j < k, ¬ hdr <+: (x ++ w).drop j) : Reduces x [] (x.drop k) := by
  intro w gs r hext
  rw [← List.drop_append_of_le_length hk] at hext
  exact hext.of_drop (hclear w)

/-- The bytes before the first header may go. -/
theorem Reduces.of_header {x : List Byte} {h : Nat} (hh : findPat hdr x 0 = some h) : Reduces x [] (x.drop h) := by
  have hin := (findPat_le_length hdr_ne_nil hh).2
  refine .of_drop (by omega) fun w j hj => ?_
  obtain ⟨-, -, hmin⟩ := (findPat_eq_some hdr_ne_nil).mp (findPat_append hdr_ne_nil hh w)
  exact hmin j (Nat.zero_le j) hj

/-- Where there is no header, all but the last 7 bytes may go: a header still to come begins among those (R102). -/
theorem Reduces.of_noHeader {x : List Byte} (hh : findPat hdr x 0 = none) : Reduces x [] (x.drop (x.length - 7)) := by
  refine .of_drop (Nat.sub_le _ _) fun w j hj hpre => ?_
  exact (findPat_eq_none hdr_ne_nil).mp hh j (Nat.zero_le j)
    (prefix_drop_of_append (by rw [hdr_length]; omega) hpre)

/-- A whole frame is given, whatever follows it (R104). -/
theorem Reduces.of_frame {x : List Byte} {h f : Nat} (hh : findPat hdr x 0 = some h)
    (hf : findPat ftr (x.drop h) 8 = some f) (hlen : f + 8 ≤ (x.drop h).length) :
    Reduces x [(x.drop h).take (f + 8)] ((x.drop h).drop (f + 8)) := by
  intro w gs r hext
  have hin := (findPat_le_length hdr_ne_nil hh).2
  have hdrop : (x ++ w).drop h = x.drop h ++ w := List.drop_append_of_le_length (by omega)
  rw [← List.drop_append_of_le_length hlen, ← hdrop] at hext
  rw [← List.take_append_of_le_length (l₂ := w) hlen, ← hdrop]
  refine .frame (findPat_append hdr_ne_nil hh w) ?_ ?_ hext
  · rw [hdrop]; exact findPat_append ftr_ne_nil hf w
  · rw [hdrop, List.length_append]; omega

/-- The frame a pass answers, if any. -/
def passFrames : PassResult → List (List Byte)
  | .frame f => [f]
  | .noFrame _ => []

/-- The footer after the header at `h`, counted from the header. -/
theorem findPat_footer_from_header {x : List Byte} {h f : Nat} (hf : findPat ftr x (h + 8) = some f) :
    ∃ g, findPat ftr (x.drop h) 8 = some g ∧ f = h + g := by
  rw [findPat_add_start] at hf
  obtain ⟨g, hg, rfl⟩ := Option.map_eq_some_iff.mp hf
  exact ⟨g, hg, Nat.add_comm g h⟩

/-- A pass loses nothing of the stream but the frame that it answers (R102 to R104). -/
theorem passOnce_reduces (s : State) : Reduces s.acc (passFrames (passOnce s).1) (passOnce s).2.acc := by
  rcases passOnce_cases s with ⟨hh, heq⟩ | ⟨h, hh, -, heq⟩ | ⟨h, f, hh, -, -, heq⟩ | ⟨h, f, hh, hf, hlen, heq⟩ <;> rw [heq]
  case inl =>
    dsimp only [passFrames]
    split
    · exact .of_noHeader hh
    · exact .refl _
  case inr.inl => exact .of_header hh
  case inr.inr.inl => exact .of_header hh
  case inr.inr.inr =>
    obtain ⟨g, hg, rfl⟩ := findPat_footer_from_header hf
    have hframe := Reduces.of_frame hh hg (by rw [List.length_drop]; omega)
    rw [List.take_drop, List.drop_drop, ← Nat.add_assoc] at hframe
    exact hframe

/-- `SCAN` loses nothing of the stream but the frames whose records it emits, in order (R105). -/
theorem scanLoop_reduces (n : Nat) (s : State) (hn : s.acc.length < 16 * n) :
    ∃ fs a, (scanLoop n s).2 = Delta.apply ⟨a, false, fs.map (recordOf s.cfg)⟩ s ∧ atRest a = true ∧
      Reduces s.acc fs a := by
  induction n generalizing s with
  | zero => omega
  | succ n ih =>
    have hpass := passOnce_reduces s
    unfold scanLoop
    rcases passOnce_spec s with ⟨f, b, heq, -, -, hlen⟩ | ⟨a, heq, hrest, -⟩
    · rw [heq] at hpass ⊢
      obtain ⟨fs, a, hloop, hrest, hred⟩ := ih (emitRecord (recordOf s.cfg f) { s with acc := b })
        (by simp only [emitRecord_acc]; omega)
      refine ⟨f :: fs, a, ?_, hrest, hpass.trans hred⟩
      simp only [hloop]
      simp [Delta.apply, emitRecord]
    · rw [heq] at hpass ⊢
      exact ⟨[], a, by simp [Delta.apply_of_acc], hrest, hpass⟩

/-- What stays of an accumulator at rest whatever the chunks: all of it, but in the phase "need header", whose residue
depends on them (R53, R212). -/
def anchored (a : List Byte) : List Byte := if phaseOf a = .needHeader then [] else a

theorem anchored_of_ne_needHeader {a : List Byte} (hphase : phaseOf a ≠ .needHeader) : anchored a = a := if_neg hphase

/-- It shows the phase (R28). -/
theorem phaseOf_anchored (a : List Byte) : phaseOf (anchored a) = phaseOf a := by
  unfold anchored
  split
  case isTrue hphase => rw [hphase]; rfl
  case isFalse => rfl

/-- An accumulator at rest holds no whole frame (R30). -/
theorem extracts_of_atRest {a : List Byte} (hrest : atRest a = true) : Extracts a [] (anchored a) := by
  rcases (atRest_iff a).mp hrest with ⟨hh, -⟩ | ⟨hpre, hlen⟩
  · rw [anchored, if_pos (phaseOf_of_noHeader hh)]
    exact .noHeader hh
  · have hphase : phaseOf a ≠ .needHeader := by
      cases hf : findPat ftr a 8 with
      | none => rw [phaseOf_of_noFooter hpre hf]; nofun
      | some f => rw [phaseOf_of_footer hpre hf]; nofun
    rw [anchored_of_ne_needHeader hphase]
    exact .unfinished (h := 0) (findPat_of_prefix hdr_ne_nil hpre) hlen

/-- The block has taken the bytes `c` and is at rest again: it emitted the records of the frames in them, and what it
keeps stands for the rest. -/
structure Consumes (c : List Byte) (s t : State) : Prop where
  cfg    : t.cfg = s.cfg
  rest   : atRest t.acc = true
  stream : ∃ fs, t.out = s.out ++ fs.map (recordOf s.cfg) ∧ Reduces (s.acc ++ c) fs t.acc

theorem Consumes.refl {s : State} (hrest : atRest s.acc = true) : Consumes [] s s :=
  ⟨rfl, hrest, [], by simp, by rw [List.append_nil]; exact .refl _⟩

theorem Consumes.trans {c d : List Byte} {s t u : State} (h1 : Consumes c s t) (h2 : Consumes d t u) :
    Consumes (c ++ d) s u := by
  obtain ⟨fs, hout, hred⟩ := h1.stream
  obtain ⟨gs, hout', hred'⟩ := h2.stream
  refine ⟨h2.cfg.trans h1.cfg, h2.rest, fs ++ gs, ?_, ?_⟩
  · rw [hout', hout, h1.cfg, List.map_append, List.append_assoc]
  · rw [← List.append_assoc]
    exact (hred.append d).trans hred'

/-- What the block shows after the same bytes is the same: `OUT`, the phase, and `ACC` anchored at a header (R53). -/
theorem Consumes.agree {c : List Byte} {s t u : State} (h1 : Consumes c s t) (h2 : Consumes c s u) :
    t.out = u.out ∧ stPhase t = stPhase u ∧ (stPhase u ≠ .needHeader → t.acc = u.acc) := by
  have gives {v : State} (h : Consumes c s v) :
      ∃ fs, v.out = s.out ++ fs.map (recordOf s.cfg) ∧ Extracts (s.acc ++ c) fs (anchored v.acc) := by
    obtain ⟨fs, hout, hred⟩ := h.stream
    exact ⟨fs, hout, by simpa using hred [] [] _ (by simpa using extracts_of_atRest h.rest)⟩
  obtain ⟨fs, hout, hext⟩ := gives h1
  obtain ⟨gs, hout', hext'⟩ := gives h2
  obtain ⟨rfl, hkept⟩ := hext.unique hext'
  have hphase : stPhase t = stPhase u := by
    unfold stPhase
    rw [← phaseOf_anchored t.acc, hkept, phaseOf_anchored]
  refine ⟨by rw [hout, hout'], hphase, fun hne => ?_⟩
  rwa [anchored_of_ne_needHeader (hphase.trans_ne hne), anchored_of_ne_needHeader hne] at hkept

/-- `APPEND` takes its chunk (R166). -/
theorem exec_appendChunk_consumes (c : List Byte) {s : State} (hcap : accCap s.cfg = none) :
    ∃ t, exec (.appendChunk c) s = .next t ∧ Consumes c s t := by
  refine ⟨appendAndScan c s, rfl, ?_⟩
  obtain ⟨fs, a, heq, hrest, hred⟩ := scanLoop_reduces ((s.acc ++ c).length / 16 + 1) (appendBytes c s)
    (by rw [appendBytes_acc]; omega)
  have hscan : appendAndScan c s = Delta.apply ⟨a, false, fs.map (recordOf s.cfg)⟩ (appendBytes c s) :=
    (appendAndScan_of_unbounded c hcap).trans heq
  rw [hscan]
  exact ⟨rfl, hrest, fs, rfl, hred⟩

/-- Without a capacity a `PUSH` is an `APPEND` of its byte (R166). -/
theorem exec_push_consumes (b : Byte) {s : State} (hcap : accCap s.cfg = none) :
    ∃ t, exec (.push b) s = .next t ∧ Consumes [b] s t := by
  have hroom : accCap s.cfg ≠ some s.acc.length := by rw [hcap]; nofun
  have hpush : pushByte b s = appendAndScan [b] s :=
    (pushByte_of_room b hroom).trans (appendAndScan_of_unbounded [b] hcap).symm
  obtain ⟨t, ht, hcons⟩ := exec_appendChunk_consumes [b] hcap
  refine ⟨t, ?_, hcons⟩
  rw [← ht]
  exact congrArg Host.Outcome.next hpush

/-- A run of operations each of which takes the bytes it brings takes all of them in order. -/
theorem execAll_consumes {is : List Instr}
    (hstep : ∀ i ∈ is, ∀ s : State, accCap s.cfg = none → ∃ t, exec i s = .next t ∧ Consumes (arrived i) s t) {s : State}
    (hcap : accCap s.cfg = none) (hrest : atRest s.acc = true) :
    ∃ t, execAll is s = .next t ∧ Consumes (is.flatMap arrived) s t := by
  induction is generalizing s with
  | nil => exact ⟨s, rfl, .refl hrest⟩
  | cons i is ih =>
    obtain ⟨hi, his⟩ := List.forall_mem_cons.mp hstep
    obtain ⟨t, ht, hcons⟩ := hi s hcap
    obtain ⟨u, hu, hcons'⟩ := ih his (by rw [hcons.cfg]; exact hcap) hcons.rest
    refine ⟨u, ?_, hcons.trans hcons'⟩
    rw [execAll, ht]
    exact hu

/-- One `APPEND` per chunk takes the chunks joined together. -/
theorem execAll_appendChunk_consumes (cs : List (List Byte)) {s : State} (hcap : accCap s.cfg = none)
    (hrest : atRest s.acc = true) :
    ∃ t, execAll (cs.map Instr.appendChunk) s = .next t ∧ Consumes cs.flatten s t := by
  have hbytes : (cs.map Instr.appendChunk).flatMap arrived = cs.flatten := by
    rw [List.flatMap_map]
    exact List.flatMap_id'
  have hrun := execAll_consumes (is := cs.map Instr.appendChunk) (fun i hi s hcap => ?_) hcap hrest
  · rwa [hbytes] at hrun
  obtain ⟨c, -, rfl⟩ := List.mem_map.mp hi
  exact exec_appendChunk_consumes c hcap

/-- One `PUSH` per byte takes the bytes. -/
theorem execAll_push_consumes (c : List Byte) {s : State} (hcap : accCap s.cfg = none) (hrest : atRest s.acc = true) :
    ∃ t, execAll (c.map Instr.push) s = .next t ∧ Consumes c s t := by
  have hbytes : (c.map Instr.push).flatMap arrived = c := by
    rw [List.flatMap_map]
    exact List.flatMap_singleton' c
  have hrun := execAll_consumes (is := c.map Instr.push) (fun i hi s hcap => ?_) hcap hrest
  · rwa [hbytes] at hrun
  obtain ⟨b, -, rfl⟩ := List.mem_map.mp hi
  exact exec_push_consumes b hcap

/-- A state with nothing in `ACC` and no capacity, for the limit of the law (R53). -/
def unboundedReset : State := { State.reset with cfg := ⟨none, []⟩ }

/-- Ten bytes that contain no header. -/
def tenBytes : List Byte := (List.range 10).map (BitVec.ofNat 8)

/-- Settles O57: both runs of chunks and the run of `PUSH` consume the same bytes, so that they agree; ten bytes without
a header show that `ACC` is not covered. -/
theorem chunkBoundaryIndependence : Obligations.ChunkBoundaryIndependence := by
  unfold Obligations.ChunkBoundaryIndependence
  refine ⟨fun s cs hcap hrest => ?law, ?limit⟩
  case law =>
    obtain ⟨a, ha, hchunks⟩ := execAll_appendChunk_consumes cs hcap hrest
    obtain ⟨b, hb, hall⟩ := exec_appendChunk_consumes cs.flatten hcap
    obtain ⟨p, hp, hbytes⟩ := execAll_push_consumes cs.flatten hcap hrest
    obtain ⟨houtA, hphaseA, haccA⟩ := hchunks.agree hall
    obtain ⟨houtP, hphaseP, haccP⟩ := hbytes.agree hall
    exact ⟨a, b, p, ha, hb, hp, houtA, houtP, hphaseA, hphaseP, fun hne => ⟨haccA hne, haccP hne⟩⟩
  case limit =>
    exact ⟨unboundedReset, { unboundedReset with acc := tenBytes.drop 3 },
      { unboundedReset with acc := tenBytes.drop 2 }, tenBytes, rfl, rfl, rfl, by decide, rfl, rfl, rfl, rfl⟩

end Sys2Proof.Machine
end

section
/-! PROOFS. Frames back to back in `ACC`: `SCAN` takes one at each pass (R105). -/

namespace Sys2Proof.Machine

open Sys2Proof.Config

/-- Where the payload brings no footer forward, the first footer of the frame is its own, whatever follows the frame
(R104, R108). -/
theorem findPat_footer_frameBytes {payload : List Byte} (hframed : framed payload = true) (c : Checksum)
    (rest : List Byte) : findPat ftr (frameBytes payload c ++ rest) 8 = some (payload.length + 8) := by
  have hfirst : findPat ftr (payload ++ ftr) 0 = some payload.length := beq_iff_eq.mp hframed
  have hdrop : (frameBytes payload c ++ rest).drop 8 = payload ++ ftr ++ (enc32 c ++ rest) := by
    simp [frameBytes, List.drop_append]
  have hshift := findPat_add_start ftr (frameBytes payload c ++ rest) 8 0
  rw [hdrop, findPat_append ftr_ne_nil hfirst] at hshift
  exact hshift

/-- A pass takes the frame at the front of `ACC` and leaves what follows it (R104). -/
theorem passOnce_of_frameBytes {s : State} {payload rest : List Byte} {c : Checksum} (hframed : framed payload = true)
    (hacc : s.acc = frameBytes payload c ++ rest) :
    passOnce s = (.frame (frameBytes payload c), { s with acc := rest }) := by
  have hhdr : findPat hdr s.acc 0 = some 0 := by
    refine findPat_of_prefix hdr_ne_nil ?_
    rw [hacc]
    simp [frameBytes]
  have hftr : findPat ftr s.acc (0 + 8) = some (payload.length + 8) := by
    rw [hacc]
    exact findPat_footer_frameBytes hframed c rest
  have hlen : payload.length + 8 + 8 = (frameBytes payload c).length := by rw [frameBytes_length]
  rcases passOnce_cases s with ⟨hh, -⟩ | ⟨h, hh, hf, -⟩ | ⟨h, f, hh, hf, hshort, -⟩ | ⟨h, f, hh, hf, -, heq⟩ <;>
    cases hhdr.symm.trans hh
  case inr.inl => cases hftr.symm.trans hf
  case inr.inr.inl =>
    cases hftr.symm.trans hf
    rw [hlen, hacc, List.length_append] at hshort
    omega
  case inr.inr.inr =>
    cases hftr.symm.trans hf
    rw [heq, hlen, slice, List.drop_zero, hacc, List.take_left, List.drop_left]

/-- A pass over an empty `ACC` finds nothing. -/
theorem passOnce_of_empty {s : State} (hacc : s.acc = []) : passOnce s = (.noFrame .needHeader, s) := by
  have hhdr : findPat hdr s.acc 0 = none := by rw [hacc]; rfl
  have hsearch : headerSearch s = (none, s) := by rw [headerSearch, hhdr, hacc]; rfl
  rw [passOnce, hsearch]

/-- `SCAN` of frames back to back emits their records in order and leaves nothing (R105). -/
theorem scanLoop_of_frames (n : Nat) (fs : List (List Byte × Checksum)) (hframed : ∀ x ∈ fs, framed x.1 = true)
    {s : State} (hacc : s.acc = (fs.map fun x => frameBytes x.1 x.2).flatten) (hn : s.acc.length < 16 * n) :
    (scanLoop n s).2 = Delta.apply ⟨[], false, fs.map fun x => recordOf s.cfg (frameBytes x.1 x.2)⟩ s := by
  induction n generalizing fs s with
  | zero => omega
  | succ n ih =>
    unfold scanLoop
    cases fs with
    | nil =>
      change s.acc = [] at hacc
      rw [passOnce_of_empty hacc]
      simp [Delta.apply, ← hacc]
    | cons x fs =>
      obtain ⟨hx, hfs⟩ := List.forall_mem_cons.mp hframed
      rw [List.map_cons, List.flatten_cons] at hacc
      rw [hacc, List.length_append, frameBytes_length] at hn
      rw [passOnce_of_frameBytes hx hacc]
      dsimp only
      rw [ih fs hfs rfl (by simp only [emitRecord_acc]; omega)]
      simp [Delta.apply, emitRecord]

/-- Settles O59: `APPEND` to an empty `ACC` is a `SCAN` of the frames, `scanLoop_of_frames`. -/
theorem framesOfAChunkInOrder : Obligations.FramesOfAChunkInOrder := by
  unfold Obligations.FramesOfAChunkInOrder
  intro s fs hcap hempty hframed
  dsimp only
  have hacc : (appendBytes (fs.map fun x => frameBytes x.1 x.2).flatten s).acc =
      (fs.map fun x => frameBytes x.1 x.2).flatten := by rw [appendBytes_acc, hempty, List.nil_append]
  have hscan := scanLoop_of_frames _ fs hframed hacc (Nat.lt_mul_div_succ _ (by decide))
  refine congrArg Host.Outcome.next ((appendAndScan_of_unbounded _ hcap).trans (hscan.trans ?_))
  simp [Delta.apply, appendBytes, ← hempty]

end Sys2Proof.Machine
end

section
/-! PROOFS. The encoding (R61 to R71): the encoder and the decoder are inverse on each format. -/

namespace Sys2Proof.Machine

open Sys2Proof.Config

/-! The command word (R62). -/

/-- What the pins select with `RST = 0` (R62, R160). -/
theorem decodePins_cmdWord (op : BitVec 2) (data : Byte) :
    decodePins false (cmdWord op data) =
      if op = 0#2 then .nop data else if op = 1#2 then .push data else if op = 2#2 then .clear data
      else .rsvd3 data := by
  have hop : (cmdWord op data).extractLsb' 8 2 = op := BitVec.extractLsb'_append_eq_left
  have hdata : (cmdWord op data).extractLsb' 0 8 = data := BitVec.extractLsb'_append_eq_right
  unfold decodePins
  rw [hop, hdata]
  rfl

/-- Every 10-bit word is a command word of R62. -/
theorem exists_cmdWord (inw : CmdWord) : ∃ op data, inw = cmdWord op data :=
  ⟨inw.extractLsb' 8 2, inw.extractLsb' 0 8, (BitVec.extractLsb'_append_extractLsb' (w := 2) (len := 8) (x := inw)).symm⟩

/-- The instruction's operands are ones the spec gives it, and it is presented as `w`. -/
def EncodesTo (i : Instr) (w : Presented) : Prop := wellFormed i = true ∧ encode i = some w

/-- What the pins select is presented by those pins (R61, R62). -/
theorem encodesTo_decodePins (rst : Bool) (inw : CmdWord) : EncodesTo (decodePins rst inw) (.pins rst inw) := by
  cases rst with
  | true => exact ⟨rfl, rfl⟩
  | false =>
    obtain ⟨op, data, rfl⟩ := exists_cmdWord inw
    rw [decodePins_cmdWord]
    split_ifs with h0 h1 h2
    · subst h0; exact ⟨rfl, rfl⟩
    · subst h1; exact ⟨rfl, rfl⟩
    · subst h2; exact ⟨rfl, rfl⟩
    · have h3 : op = 3#2 := by bv_omega
      subst h3; exact ⟨rfl, rfl⟩

/-! The frame and its parse-mode byte (R64, R67). -/

/-- A payload brings no footer forward exactly when the frame's first footer is its own (R104, R108). -/
theorem framed_iff_findPat (payload : List Byte) (c : Checksum) :
    framed payload = true ↔ findPat ftr (frameBytes payload c) 8 = some (payload.length + 8) := by
  refine ⟨fun hframed => ?_, fun hfind => ?_⟩
  · have hfoot := findPat_footer_frameBytes hframed c []
    rwa [List.append_nil] at hfoot
  · have hdrop : (frameBytes payload c).drop 8 = payload ++ ftr ++ enc32 c := by simp [frameBytes, List.drop_append]
    have hshift := findPat_add_start ftr (frameBytes payload c) 8 0
    rw [hdrop, Nat.add_zero, hfind, eq_comm, Option.map_eq_some_iff] at hshift
    obtain ⟨j, hj, hsum⟩ := hshift
    cases Nat.add_right_cancel hsum
    have htake := findPat_take ftr_ne_nil hj (Nat.le_refl _)
    rw [List.take_left' List.length_append] at htake
    exact beq_iff_eq.mpr htake

/-- A frame whose payload brings no footer forward splits into its payload and its trailer (R104). -/
theorem splitFrame_frameBytes {payload : List Byte} (hframed : framed payload = true) (c : Checksum) :
    splitFrame (frameBytes payload c) = .ok (payload, c) := by
  have hhead : (frameBytes payload c).take 8 = hdr := by
    rw [take_eq_hdr_iff]
    simp [frameBytes]
  have hpayload := slice_frameBytes_payload payload c
  have htrailer := drop_frameBytes_trailer payload c
  rw [frameBytes_length] at hpayload htrailer
  refine splitFrame_eq_ok.mpr ⟨hhead, payload.length + 8, (framed_iff_findPat payload c).mp hframed,
    frameBytes_length payload c, hpayload.symm, ?_⟩
  exact (be32_enc32 c).symm.trans (congrArg be32 htrailer.symm)

/-- The payload of a candidate frame brings no footer forward (R104). -/
theorem framed_of_splitFrame {f payload : List Byte} {c : Checksum} (h : splitFrame f = .ok (payload, c)) :
    framed payload = true := by
  have hbytes := frameBytes_of_splitFrame h
  obtain ⟨-, i, hfind, hlen, -⟩ := splitFrame_eq_ok.mp h
  rw [← hbytes, frameBytes_length] at hlen
  rw [framed_iff_findPat payload c, hbytes, hfind, Option.some_inj]
  omega

/-- A frame with its PacketHeader fields splits at its parse-mode byte (R67, R69). -/
theorem splitMode_restFrame {mode : Byte} {r : FrameRest} (hframed : framed (restPayload mode r) = true) :
    splitMode (restFrame mode r) = .ok (mode, r) := by
  unfold splitMode restFrame
  rw [splitFrame_frameBytes hframed]
  exact congrArg (fun len => Except.ok (mode, { r with len := len })) (be16_enc16 r.len)

/-- The payload of a frame that splits at its parse-mode byte brings no footer forward. -/
theorem framed_of_splitMode {f : List Byte} {mode : Byte} {r : FrameRest} (h : splitMode f = .ok (mode, r)) :
    framed (restPayload mode r) = true := by
  obtain ⟨hcand, hbytes⟩ := splitMode_eq_ok h
  unfold isCandidate at hcand
  split at hcand
  case h_2 => cases hcand
  case h_1 x hsplit =>
    obtain ⟨payload, c⟩ := x
    have hpayload : payload = restPayload mode r := by
      rw [← slice_frameBytes_payload payload c, ← slice_frameBytes_payload (restPayload mode r) r.csum,
        frameBytes_of_splitFrame hsplit, ← hbytes]
      rfl
    rw [← hpayload]
    exact framed_of_splitFrame hsplit

/-! The rows (R71, R142 to R144). -/

/-- The modes outside the known set are those of no other row (R71, R72). -/
theorem modeRow_of_unknown {mode : Byte} (h : modeKnownFlag mode = false) (r : FrameRest) :
    modeRow mode r = .modeUnknown mode r := by
  simp only [modeKnownFlag, modeKnownSet, List.contains_eq_mem, List.mem_cons, List.not_mem_nil, or_false,
    decide_eq_false_iff_not, not_or] at h
  obtain ⟨h0, h1, h2, h3, h4, h5, h7⟩ := h
  rw [modeRow, if_neg h0, if_neg h1, if_neg h2, if_neg h3, if_neg h4, if_neg h5, if_neg h7]

/-- The row of the parse-mode map is presented by a frame with its mode byte (R71). -/
theorem encodesTo_modeRow {mode : Byte} {r : FrameRest} (hframed : framed (restPayload mode r) = true) :
    EncodesTo (modeRow mode r) (.modeByte (restFrame mode r)) := by
  cases hknown : modeKnownFlag mode with
  | false =>
    rw [modeRow_of_unknown hknown]
    exact ⟨by rw [wellFormed, hframed, hknown]; rfl, rfl⟩
  | true =>
    simp only [modeKnownFlag, modeKnownSet, List.contains_eq_mem, List.mem_cons, List.not_mem_nil, or_false,
      decide_eq_true_eq] at hknown
    rcases hknown with rfl | rfl | rfl | rfl | rfl | rfl | rfl <;> exact ⟨hframed, rfl⟩

/-- The command-status row is presented by a mode-0x00 frame (R142 to R144). -/
theorem encodesTo_statusRow {r : FrameRest} (hframed : framed (restPayload 0x00#8 r) = true) :
    EncodesTo (statusRow r) (.csVector (restFrame 0x00#8 r)) := by
  unfold statusRow
  split_ifs with hvalid hknown
  · exact ⟨by simp [wellFormed, hframed, hvalid, hknown], rfl⟩
  · exact ⟨by simp [wellFormed, hframed, hvalid, hknown], rfl⟩
  · exact ⟨by simp [wellFormed, hframed, hvalid], rfl⟩

/-- A frame read for its parse-mode byte decodes to the row of that byte (R71). -/
theorem decode_modeByte_restFrame {mode : Byte} {r : FrameRest} (hframed : framed (restPayload mode r) = true) :
    decode (.modeByte (restFrame mode r)) = .ok (modeRow mode r) := by
  rw [decode, decodeMode, splitMode_restFrame hframed]

/-- A mode-0x00 frame read for its status vector decodes to the command-status row of its kind (R142). -/
theorem decode_csVector_restFrame {r : FrameRest} (hframed : framed (restPayload 0x00#8 r) = true) :
    decode (.csVector (restFrame 0x00#8 r)) = .ok (statusRow r) := by
  rw [decode, decodeStatusFrame, splitMode_restFrame hframed]
  rfl

/-- Settles O5: by the instruction, the format it is presented in is read back by the lemma on that format. -/
theorem decodeInvertsEncode : Obligations.DecodeInvertsEncode := by
  unfold Obligations.DecodeInvertsEncode
  intro i w hwf henc
  cases i
  case nop | push | clear | rsvd3 => cases henc; exact congrArg Except.ok (decodePins_cmdWord _ _)
  case reset | hdr | ftr | appendChunk => cases henc; rfl
  case frame payload c =>
    cases henc
    rw [decode, decodeWire, splitFrame_frameBytes hwf]
  case mode00CmdStatus | mode01Adc24 | mode02Adc24 | mode03Struct | mode04Adc12 | mode05Adc12 | mode07Adc12 =>
    cases henc; exact decode_modeByte_restFrame hwf
  case modeUnknown mode r =>
    cases henc
    simp only [wellFormed, Bool.and_eq_true, Bool.not_eq_true'] at hwf
    obtain ⟨hframed, hunknown⟩ := hwf
    rw [decode_modeByte_restFrame hframed, modeRow_of_unknown hunknown]
  case csThermistorComplete r =>
    cases henc
    simp only [wellFormed, Bool.and_eq_true, beq_iff_eq] at hwf
    obtain ⟨⟨hframed, hvalid⟩, hvector⟩ := hwf
    rw [decode_csVector_restFrame hframed, statusRow, if_pos hvalid, if_pos hvector]
  case csUnknown r =>
    cases henc
    simp only [wellFormed, Bool.and_eq_true, bne_iff_ne] at hwf
    obtain ⟨⟨hframed, hvalid⟩, hvector⟩ := hwf
    rw [decode_csVector_restFrame hframed, statusRow, if_pos hvalid, if_neg hvector]
  case csSkipped r =>
    cases henc
    simp only [wellFormed, Bool.and_eq_true, Bool.not_eq_true'] at hwf
    obtain ⟨hframed, hinvalid⟩ := hwf
    rw [decode_csVector_restFrame hframed, statusRow, if_neg (Bool.eq_false_iff.mp hinvalid)]
  case append | consumePrefix | dropPrefix | find | scanPass | scan | parse | csum | verify | demux | csDecode |
      csMatch | emit =>
    cases henc

/-- The family of lemmas `EncodingExists` as one statement. -/
theorem isSome_encode (i : Instr) : (encode i).isSome = !isInternal i := by
  cases i <;> rfl

/-- What has an encoding is no internal operation (R10). -/
theorem isInternal_of_encode {i : Instr} {w : Presented} (h : encode i = some w) : isInternal i = false := by
  have hexists := isSome_encode i
  rw [h, Option.isSome_some] at hexists
  simpa using hexists.symm

/-- What decodes is the encoding of its well-formed instruction, in every format (R61 to R71). -/
theorem encodesTo_of_decode {w : Presented} {i : Instr} (h : decode w = .ok i) : EncodesTo i w := by
  cases w
  case pins rst inw => cases h; exact encodesTo_decodePins rst inw
  case sync bytes =>
    rw [decode, decodeSync] at h
    split_ifs at h with hheader hfooter
    · cases h; subst hheader; exact ⟨rfl, rfl⟩
    · cases h; subst hfooter; exact ⟨rfl, rfl⟩
  case wire bytes =>
    rw [decode, decodeWire] at h
    split at h
    case h_1 => cases h
    case h_2 payload c hsplit =>
      cases h
      exact ⟨framed_of_splitFrame hsplit, by rw [encode, frameBytes_of_splitFrame hsplit]⟩
  case modeByte bytes =>
    rw [decode, decodeMode] at h
    split at h
    case h_1 => cases h
    case h_2 mode r hsplit =>
      cases h
      rw [← (splitMode_eq_ok hsplit).2]
      exact encodesTo_modeRow (framed_of_splitMode hsplit)
  case csVector bytes =>
    rw [decode, decodeStatusFrame] at h
    split at h
    case h_1 => cases h
    case h_2 mode r hsplit =>
      split at h
      case isFalse => cases h
      case isTrue hmode =>
        cases h
        subst hmode
        rw [← (splitMode_eq_ok hsplit).2]
        exact encodesTo_statusRow (framed_of_splitMode hsplit)
  case chunk bytes => cases h; exact ⟨rfl, rfl⟩

/-- Settles O6: `encodesTo_of_decode`, and what has an encoding is not internal. -/
theorem encodeInvertsDecode : Obligations.EncodeInvertsDecode := by
  unfold Obligations.EncodeInvertsDecode
  intro w i h
  obtain ⟨hwf, henc⟩ := encodesTo_of_decode h
  exact ⟨hwf, henc, isInternal_of_encode henc⟩

/-- Settles O4: each word is decoded by evaluation. -/
theorem wordsDecodeAsWritten : Obligations.WordsDecodeAsWritten := by
  unfold Obligations.WordsDecodeAsWritten
  exact ⟨rfl, rfl, rfl, rfl, rfl, rfl, rfl, rfl, rfl, rfl⟩

end Sys2Proof.Machine
end

section
/-! PROOFS. The literals of the wire frame in a byte sequence (R65, R66): where occurrences can overlap. -/

namespace Sys2Proof.Machine

open Sys2Proof.Config

/-- The end of `p` from its offset `d` on and the start of `q` agree as far as both go: only then can `q` stand `d`
offsets after `p`. -/
def Agrees (p q : List Byte) (d : Nat) : Prop := p.drop d <+: q ∨ q <+: p.drop d

/-- Where one pattern stands at or after another, they agree. -/
theorem agrees_of_occurrences {p q sq : List Byte} {i j : Nat} (hp : p <+: sq.drop i) (hq : q <+: sq.drop j)
    (hij : i ≤ j) : Agrees p q (j - i) := by
  have hrest : p.drop (j - i) <+: sq.drop j := by
    have hdrop := hp.drop (j - i)
    rwa [List.drop_drop, Nat.add_sub_of_le hij] at hdrop
  exact List.prefix_or_prefix_of_prefix hrest hq

/-- No later start inside `HDR` agrees with `HDR`: its bytes do not repeat its first ones (R65). -/
theorem hdr_not_agrees_hdr {d : Nat} (hd : d < 8) (hpos : 0 < d) : ¬ Agrees hdr hdr d := by
  unfold Agrees
  revert d
  decide

/-- `FTR` agrees with no part of `HDR`, which has no 0x24 in it (R65, R66). -/
theorem hdr_not_agrees_ftr {d : Nat} (hd : d < 8) : ¬ Agrees hdr ftr d := by
  unfold Agrees
  revert d
  decide

/-- `HDR` agrees with no part of `FTR`. -/
theorem ftr_not_agrees_hdr {d : Nat} (hd : d < 4) : ¬ Agrees ftr hdr d := by
  unfold Agrees
  revert d
  decide

/-- Settles O27: occurrences that overlapped would agree. -/
theorem headersNeverOverlap : Obligations.HeadersNeverOverlap := by
  unfold Obligations.HeadersNeverOverlap
  intro sq i j hi
  have hhdr : hdr <+: sq.drop i := (slice_eq_iff_prefix hdr sq i).mp hi
  refine ⟨fun hj hij => ?header, fun hj => ?footer⟩
  case header =>
    by_contra hnear
    have hhdr' : hdr <+: sq.drop j := (slice_eq_iff_prefix hdr sq j).mp hj
    exact hdr_not_agrees_hdr (by omega) (by omega) (agrees_of_occurrences hhdr hhdr' hij.le)
  case footer =>
    by_contra hnear
    have hftr : ftr <+: sq.drop j := (slice_eq_iff_prefix ftr sq j).mp hj
    rcases Nat.le_total i j with hij | hji
    · exact hdr_not_agrees_ftr (by omega) (agrees_of_occurrences hhdr hftr hij)
    · exact ftr_not_agrees_hdr (by omega) (agrees_of_occurrences hftr hhdr hji)

end Sys2Proof.Machine
end

section
/-! PROOFS. Command status on the wires (R73 to R75, R145): the codes, the known entry, and the event beside a record. -/

namespace Sys2Proof.Machine

open Sys2Proof.Config

/-- Settles O42: the known entry is the first of every `CS_TABLE`; the codes are those of the tables. -/
theorem knownVectorIsThermistorComplete : Obligations.KnownVectorIsThermistorComplete := by
  unfold Obligations.KnownVectorIsThermistorComplete
  refine ⟨fun s => ?known, ⟨rfl, rfl, rfl, rfl⟩, ⟨rfl, rfl⟩, ⟨rfl, rfl, rfl, fun _ _ => rfl⟩, ⟨rfl, rfl⟩, rfl, rfl, rfl,
    fun why => ?phase⟩
  case known => exact congrArg (fun m => Host.Outcome.next (setRet (.entry m) s)) (matchVector_knownVector s.cfg)
  case phase => cases why <;> decide

/-- The event of a `KNOWN` record has its operation and phase (R75). -/
theorem csEvent_of_known {r : Record} {op : CsOp} {ph : CsPhase} (h : r.cs = .known op ph) :
    csEvent r = ⟨true, some op, some ph⟩ := by
  rw [csEvent, h]

/-- A record of any other kind raises no event (R145). -/
theorem csEvent_of_not_known {r : Record} (h : csKindCode r.cs ≠ 3#2) : csEvent r = ⟨false, none, none⟩ := by
  unfold csEvent
  cases hcs : r.cs with
  | known op ph => exact absurd (by rw [hcs]; rfl) h
  | absent | skipped | unknown => rfl

/-- A record's kind is `KNOWN` exactly when it has an operation and a phase (R74). -/
theorem csKindCode_eq_known_iff (c : CsResult) : csKindCode c = 3#2 ↔ ∃ op ph, c = .known op ph := by
  cases c <;> simp [csKindCode]

/-- `CS_EVT_VALID = 1` exactly for a `KNOWN` record (R75, R145). -/
theorem csEvent_valid_iff (r : Record) : (csEvent r).valid = true ↔ csKindCode r.cs = 3#2 := by
  refine ⟨fun hvalid => ?_, fun hkind => ?_⟩
  · by_contra hkind
    rw [csEvent_of_not_known hkind] at hvalid
    cases hvalid
  · obtain ⟨op, ph, hcs⟩ := (csKindCode_eq_known_iff r.cs).mp hkind
    rw [csEvent_of_known hcs]

/-- The events of records added are added to those presented (R148). -/
theorem presentedEvents_of_append {s t : State} {rs : List Record} (h : t.presented = s.presented ++ rs) :
    presentedEvents t = presentedEvents s ++ (rs.filter fun r => r.port == .cs).map csEvent := by
  rw [presentedEvents, h, List.filter_append, List.map_append]
  rfl

/-- An instruction but `RESET` presents the records it adds to `OUT` (R33, R148). -/
theorem exec_presents {i : Instr} {s t : State} (h : exec i s = .next t) (hi : ∀ w, i ≠ .reset w) :
    ∃ rs, t.out = s.out ++ rs ∧ t.presented = s.presented ++ rs := by
  rcases exec_cases h with ⟨d, r, rfl, -⟩ | ⟨_, -, rfl⟩ | ⟨w, hreset, -⟩
  · exact ⟨d.records, rfl, rfl⟩
  · exact ⟨[], (List.append_nil _).symm, (List.append_nil _).symm⟩
  · exact absurd hreset (hi w)

/-- `RESET` is presented by `RST = 1` alone (R61). -/
theorem rstPresented_of_decode_reset {s : State} {inw : CmdWord} (h : decode (fetched s) = .ok (.reset inw)) :
    rstPresented s = true := by
  obtain ⟨-, henc⟩ := encodesTo_of_decode h
  have hpins : fetched s = .pins true inw := (Option.some_inj.mp henc).symm
  rw [rstPresented, hpins]

/-- A step without `RST = 1` presents the records it adds to `OUT`, and no other (R191, R213). -/
theorem step_presents {s t : State} (hrst : rstPresented s = false) (h : step s = .next t) :
    t.out = s.out ++ t.presented := by
  obtain ⟨i, -, hdec, hexec⟩ := step_eq_next h
  have hi (w : CmdWord) : i ≠ .reset w := by
    rintro rfl
    rw [rstPresented_of_decode_reset hdec] at hrst
    cases hrst
  obtain ⟨rs, hout, hpres⟩ := exec_presents hexec hi
  rw [beginStep_presented, List.nil_append] at hpres
  rw [hout, hpres, beginStep_out]

/-- Settles O43: `csEvent` by the record's kind, and `exec_presents` for what stands beside it. -/
theorem eventRaisedForKnownOnly : Obligations.EventRaisedForKnownOnly := by
  unfold Obligations.EventRaisedForKnownOnly
  refine ⟨fun r => ⟨csEvent_valid_iff r, fun _ _ => csEvent_of_known, fun hinvalid => ?invalid⟩, fun r s => ?emit,
    fun s t hrst h => ⟨t.presented, step_presents hrst h, rfl⟩⟩
  case invalid =>
    refine csEvent_of_not_known fun hkind => ?_
    rw [(csEvent_valid_iff r).mpr hkind] at hinvalid
    cases hinvalid
  case emit =>
    refine ⟨emitRecord r s, rfl, ?_⟩
    rw [presentedEvents_of_append (emitRecord_presented r s)]
    cases hport : r.port <;> simp [hport]

end Sys2Proof.Machine
end

section
/-! PROOFS. The accumulator's own operations (R90 to R92), and their clamped case (R94). -/

namespace Sys2Proof.Machine

/-- A slice from offset 0 is a prefix. -/
theorem slice_zero_left (sq : List Byte) (n : Nat) : slice sq 0 n = sq.take n := by
  rw [slice, List.drop_zero]

/-- A slice up to the end is a suffix. -/
theorem slice_length_right (sq : List Byte) (n : Nat) : slice sq n sq.length = sq.drop n := by
  rw [slice, List.take_length]

/-- `append([])` leaves `ACC` unchanged (R90). -/
theorem appendBytes_nil (s : State) : appendBytes [] s = s := by
  rw [appendBytes, List.append_nil]

/-- `drop_prefix(0)` does nothing (R92). -/
theorem dropFront_zero (s : State) : dropFront 0 s = s := by
  rw [dropFront, List.drop_zero]

/-- Dropping at least `|ACC|` bytes empties `ACC` (R92, R94). -/
theorem dropFront_of_length_le {n : Nat} {s : State} (h : s.acc.length ≤ n) : dropFront n s = { s with acc := [] } := by
  rw [dropFront, List.drop_eq_nil_of_le h]

theorem exec_append (c : List Byte) (s : State) : exec (.append c) s = .next (appendBytes c s) := rfl

theorem exec_dropPrefix (n : Nat) (s : State) : exec (.dropPrefix n) s = .next (dropFront n s) := rfl

/-- `consume_prefix(n)` is `drop_prefix(n)` that returns what it drops (R91, R92). -/
theorem exec_consumePrefix (n : Nat) (s : State) :
    exec (.consumePrefix n) s = .next (setRet (.bytes (s.acc.take n)) (dropFront n s)) := rfl

/-- Consuming at least `|ACC|` bytes returns all of `ACC` and leaves it empty (R91, R94). -/
theorem exec_consumePrefix_of_length_le {n : Nat} {s : State} (h : s.acc.length ≤ n) :
    exec (.consumePrefix n) s = .next { s with acc := [], ret := .bytes s.acc } := by
  rw [exec_consumePrefix, dropFront_of_length_le h, List.take_of_length_le h, setRet]

/-- Dropping at least `|ACC|` bytes leaves `ACC` empty (R92, R94). -/
theorem exec_dropPrefix_of_length_le {n : Nat} {s : State} (h : s.acc.length ≤ n) :
    exec (.dropPrefix n) s = .next { s with acc := [] } := by
  rw [exec_dropPrefix, dropFront_of_length_le h]

/-- Settles O28: the kept offsets are those of `readByte_appendBytes`. -/
theorem appendWritesTheTail : Obligations.AppendWritesTheTail := by
  unfold Obligations.AppendWritesTheTail
  refine fun c s => ⟨appendBytes c s, exec_append c s, rfl, fun a ha => ?offsets, ?empty⟩
  case offsets => rw [readByte_appendBytes, if_pos ha]
  case empty => rw [exec_append, appendBytes_nil]

/-- Settles O29: `exec_consumePrefix` for the next state, `readByte_dropFront` for the offsets. -/
theorem consumeReturnsPrefix : Obligations.ConsumeReturnsPrefix := by
  unfold Obligations.ConsumeReturnsPrefix
  refine fun n s _ => ⟨⟨_, exec_consumePrefix n s, ?next, fun a => ?offsets⟩, ?zero,
    exec_consumePrefix_of_length_le (Nat.le_refl _)⟩
  case next => rw [slice_length_right, slice_zero_left, setRet, dropFront]
  case offsets =>
    calc readByte (setRet (.bytes (s.acc.take n)) (dropFront n s)) a
      _ = readByte (dropFront n s) a := by rw [readByte, readByte, setRet_acc]
      _ = readByte s (a + n) := by rw [readByte_dropFront, Nat.add_comm]
  case zero => rw [exec_consumePrefix, dropFront_zero, List.take_zero, setRet]

/-- Settles O30: `exec_consumePrefix` and `exec_dropPrefix` leave the same state but for the returned value. -/
theorem dropDiscardsPrefix : Obligations.DropDiscardsPrefix := by
  unfold Obligations.DropDiscardsPrefix
  refine fun n s _ => ⟨⟨_, _, exec_dropPrefix n s, ?next, exec_consumePrefix n s, ?sameEffect⟩, ?zero,
    exec_dropPrefix_of_length_le (Nat.le_refl _)⟩
  case next => rw [slice_length_right, dropFront]
  case sameEffect => rw [setRet, dropFront]
  case zero => rw [exec_dropPrefix, dropFront_zero]

/-- Settles O31: the clamped case of both operations (log 9). -/
theorem removalBeyondTheEndIsClamped : Obligations.RemovalBeyondTheEndIsClamped := by
  unfold Obligations.RemovalBeyondTheEndIsClamped
  exact fun n s h => ⟨exec_consumePrefix_of_length_le (Nat.le_of_lt h), exec_dropPrefix_of_length_le (Nat.le_of_lt h)⟩

end Sys2Proof.Machine
end

section
/-! PROOFS. One `SCAN_PASS` (R102 to R104), by what the searches find in `ACC`: the rows `HDR` and `FTR`, the outcomes of
the pass, and the frame it cuts out; then `FIND` (R101) and the row `FRAME` (R105) by themselves. -/

namespace Sys2Proof.Machine

open Sys2Proof.Config

/-- Step 1 without a header trims `ACC` to its last 7 bytes if it has more than 8 (R102). -/
theorem headerSearch_of_noHeader {s : State} (hh : findPat hdr s.acc 0 = none) :
    headerSearch s =
      (none, { s with acc := if s.acc.length > 8 then s.acc.drop (s.acc.length - 7) else s.acc }) := by
  unfold headerSearch
  rw [hh]
  dsimp only
  split <;> rfl

/-- Step 1 with a header goes on from it (R102). -/
theorem headerSearch_of_header {s : State} {h : Nat} (hh : findPat hdr s.acc 0 = some h) :
    headerSearch s = (some h, s) := by
  rw [headerSearch, hh]

/-- Step 2 without a footer drops what precedes the header (R103). -/
theorem footerSearch_of_noFooter {s : State} {h : Nat} (hf : findPat ftr s.acc (h + 8) = none) :
    footerSearch h s = (none, dropFront h s) := by
  rw [footerSearch, hf]

/-- Step 2 with a footer goes on from it (R103). -/
theorem footerSearch_of_footer {s : State} {h f : Nat} (hf : findPat ftr s.acc (h + 8) = some f) :
    footerSearch h s = (some f, s) := by
  rw [footerSearch, hf]

/-- Settles O17: the row is `headerSearch`. -/
theorem headerRowSearches : Obligations.HeaderRowSearches := by
  unfold Obligations.HeaderRowSearches
  intro s
  have hexec : exec .hdr s = execHdr s := rfl
  rw [hexec, execHdr]
  refine ⟨fun hh => ?noHeader, fun h hh => ?header⟩
  case noHeader => rw [headerSearch_of_noHeader hh]; rfl
  case header => rw [headerSearch_of_header hh]; rfl

/-- Settles O18: with a header the row is `footerSearch`. -/
theorem footerRowSearches : Obligations.FooterRowSearches := by
  unfold Obligations.FooterRowSearches
  intro s h hh
  have hexec : exec .ftr s = execFtr s := rfl
  rw [hexec, execFtr, headerSearch_of_header hh]
  dsimp only
  refine ⟨fun hf => ?noFooter, fun f hf => ?footer⟩
  case noFooter => rw [footerSearch_of_noFooter hf]; rfl
  case footer => rw [footerSearch_of_footer hf]; rfl

/-! The four outcomes of a pass, each under what the searches find. -/

theorem passOnce_of_noHeader {s : State} (hh : findPat hdr s.acc 0 = none) :
    passOnce s = (.noFrame .needHeader,
      { s with acc := if s.acc.length > 8 then s.acc.drop (s.acc.length - 7) else s.acc }) := by
  rw [passOnce, headerSearch_of_noHeader hh]

theorem passOnce_of_noFooter {s : State} {h : Nat} (hh : findPat hdr s.acc 0 = some h)
    (hf : findPat ftr s.acc (h + 8) = none) : passOnce s = (.noFrame .needFooter, { s with acc := s.acc.drop h }) := by
  rw [passOnce, headerSearch_of_header hh]
  dsimp only
  rw [footerSearch_of_noFooter hf]
  rfl

theorem passOnce_of_footer {s : State} {h f : Nat} (hh : findPat hdr s.acc 0 = some h)
    (hf : findPat ftr s.acc (h + 8) = some f) : passOnce s = trailerCheck h f s := by
  rw [passOnce, headerSearch_of_header hh]
  dsimp only
  rw [footerSearch_of_footer hf]

theorem passOnce_of_noTrailer {s : State} {h f : Nat} (hh : findPat hdr s.acc 0 = some h)
    (hf : findPat ftr s.acc (h + 8) = some f) (hshort : s.acc.length < f + 8) :
    passOnce s = (.noFrame .needTrailer, { s with acc := s.acc.drop h }) := by
  have hlack : ¬ s.acc.length ≥ f + (ftrLen + trlLen) := Nat.not_le.mpr hshort
  rw [passOnce_of_footer hh hf, trailerCheck, if_neg hlack]
  rfl

theorem passOnce_of_frame {s : State} {h f : Nat} (hh : findPat hdr s.acc 0 = some h)
    (hf : findPat ftr s.acc (h + 8) = some f) (hlen : f + 8 ≤ s.acc.length) :
    passOnce s = (.frame (slice s.acc h (f + 8)), { s with acc := s.acc.drop (f + 8) }) := by
  have hwhole : s.acc.length ≥ f + (ftrLen + trlLen) := hlen
  have hle := (findPat_le_length ftr_ne_nil hf).1
  have hend : h + (f - h + (ftrLen + trlLen)) = f + 8 := by dsimp only [ftrLen, trlLen]; omega
  rw [passOnce_of_footer hh hf, trailerCheck, if_pos hwhole]
  dsimp only [consumeFront, dropFront]
  rw [List.take_drop, List.drop_drop, hend]
  rfl

/-- `SCAN_PASS` as an instruction is the pass, with what it answers left in `ret`. -/
theorem exec_scanPass_of_passOnce {s u : State} {r : PassResult} (h : passOnce s = (r, u)) :
    exec .scanPass s = .next (setRet (.pass r) u) := by
  have hexec : exec .scanPass s = .next (setRet (.pass (passOnce s).1) (passOnce s).2) := rfl
  rw [hexec, h]

/-- The pass behind a `SCAN_PASS` that has answered. -/
theorem passOnce_of_exec_scanPass {s t : State} {r : PassResult} (h : exec .scanPass s = .next t)
    (hret : t.ret = .pass r) : ∃ u, passOnce s = (r, u) ∧ t = setRet (.pass r) u := by
  rcases hpass : passOnce s with ⟨r', u⟩
  cases (exec_scanPass_of_passOnce hpass).symm.trans h
  rw [setRet_ret] at hret
  cases hret
  exact ⟨u, rfl, rfl⟩

/-- Settles O19: the four outcomes of `passOnce`; `FTR` without a header ends at `headerSearch` as the pass does. -/
theorem scanPassOutcomes : Obligations.ScanPassOutcomes := by
  unfold Obligations.ScanPassOutcomes
  refine fun s => ⟨fun hh => ⟨exec_scanPass_of_passOnce (passOnce_of_noHeader hh), ?footerRow⟩,
    fun h hh hf => exec_scanPass_of_passOnce (passOnce_of_noFooter hh hf),
    fun h f hh hf hshort => exec_scanPass_of_passOnce (passOnce_of_noTrailer hh hf hshort),
    fun h f hh hf hlen => exec_scanPass_of_passOnce (passOnce_of_frame hh hf hlen)⟩
  case footerRow =>
    have hexec : exec .ftr s = execFtr s := rfl
    rw [hexec, execFtr, headerSearch_of_noHeader hh]
    rfl

/-- Settles O21: the pass is `passOnce_of_frameBytes`. -/
theorem firstFooterEndsFrame : Obligations.FirstFooterEndsFrame := by
  unfold Obligations.FirstFooterEndsFrame
  exact fun s payload rest c hframed hacc => exec_scanPass_of_passOnce (passOnce_of_frameBytes hframed hacc)

/-- The frame a pass answers is a candidate frame cut out of `ACC`: something may go before it, and what follows it
stays (R104, R111). -/
theorem passOnce_eq_frame {s u : State} {f : List Byte} (h : passOnce s = (.frame f, u)) :
    isCandidate f = true ∧ ∃ before, s.acc = before ++ f ++ u.acc := by
  constructor
  · rcases passOnce_spec s with ⟨f', a, heq, hcand, -⟩ | ⟨a, heq, -⟩ <;> cases heq.symm.trans h
    exact hcand
  · rcases passOnce_cases s with ⟨-, heq⟩ | ⟨_, -, -, heq⟩ | ⟨_, _, -, -, -, heq⟩ | ⟨k, g, -, hg, -, heq⟩ <;>
      cases heq.symm.trans h
    have hle := (findPat_le_length ftr_ne_nil hg).1
    have hbefore : s.acc.take k = (s.acc.take (g + 8)).take k := by rw [List.take_take, Nat.min_eq_left (by omega)]
    refine ⟨s.acc.take k, ?_⟩
    dsimp only
    rw [slice, hbefore, List.take_append_drop, List.take_append_drop]

/-- A candidate frame begins with `HDR`, and its first `FTR` from the header on stands 8 bytes before its end (R104). -/
theorem footer_of_isCandidate {f : List Byte} (h : isCandidate f = true) :
    16 ≤ f.length ∧ f.take 8 = hdr ∧ findPat ftr f 8 = some (f.length - 8) := by
  unfold isCandidate at h
  split at h
  case h_2 => cases h
  case h_1 x hsplit =>
    obtain ⟨hhead, i, hfind, hlen, -⟩ := splitFrame_eq_ok.mp hsplit
    have hle := (findPat_le_length ftr_ne_nil hfind).1
    have hi : f.length - 8 = i := by omega
    exact ⟨by omega, hhead, by rw [hi, hfind]⟩

/-- Settles O20: the frame is cut out of `ACC` (`passOnce_eq_frame`) and is a candidate (`footer_of_isCandidate`). -/
theorem extractedFrameIsCandidate : Obligations.ExtractedFrameIsCandidate := by
  unfold Obligations.ExtractedFrameIsCandidate
  intro s t f hexec hret
  obtain ⟨u, hpass, -⟩ := passOnce_of_exec_scanPass hexec hret
  obtain ⟨hcand, before, hacc⟩ := passOnce_eq_frame hpass
  obtain ⟨hlen, hhead, hfind⟩ := footer_of_isCandidate hcand
  have hfoot : slice f (f.length - 8) (f.length - 8 + ftr.length) = ftr :=
    (slice_eq_iff_prefix ftr f _).mpr ((findPat_eq_some ftr_ne_nil).mp hfind).2.1
  have hend : f.length - 8 + ftr.length = f.length - 4 := by rw [ftr_length]; omega
  rw [hend] at hfoot
  exact ⟨⟨before, u.acc, hacc.symm⟩, hlen, hhead, hfoot, hfind, hcand⟩

/-- Settles O26: `findPat_eq_some`, in slices. -/
theorem findReturnsLeastOffset : Obligations.FindReturnsLeastOffset := by
  unfold Obligations.FindReturnsLeastOffset
  intro pat sq start s hp
  refine ⟨findPat pat sq start, rfl, fun i => ?_⟩
  simp only [ne_eq, slice_eq_iff_prefix]
  constructor
  · intro hfind
    obtain ⟨hle, hpre, hmin⟩ := (findPat_eq_some hp).mp hfind
    exact ⟨hle, (findPat_le_length hp hfind).2, hpre, hmin⟩
  · rintro ⟨hle, -, hpre, hmin⟩
    exact (findPat_eq_some hp).mpr ⟨hle, hpre, hmin⟩

/-- Settles O47: `recordOf` is `DEMUX` of `PARSE`, and the row emits it. -/
theorem frameRowEmitsItsRecord : Obligations.FrameRowEmitsItsRecord := by
  unfold Obligations.FrameRowEmitsItsRecord
  intro payload c s
  have hexec : exec (.frame payload c) s = .next (emitRecord (recordOf s.cfg (frameBytes payload c)) s) := rfl
  rw [hexec, recordOf, emitRecord]

end Sys2Proof.Machine
end

section
/-! PROOFS. `SCAN` as its passes (R105): how many are enough (R106), what an accumulator at rest gives (R112), and that
what a pass returned before makes no difference (R23). -/

namespace Sys2Proof.Machine

open Sys2Proof.Config

/-- Each extraction takes at least 16 bytes from `ACC` (R106). -/
theorem length_of_passOnce_frame {s u : State} {f : List Byte} (h : passOnce s = (.frame f, u)) :
    16 ≤ f.length ∧ u.acc.length + f.length ≤ s.acc.length := by
  obtain ⟨hcand, before, hacc⟩ := passOnce_eq_frame h
  refine ⟨(footer_of_isCandidate hcand).1, ?_⟩
  rw [hacc, List.length_append, List.length_append]
  omega

/-- Any two numbers of passes that are enough give the same (R106). -/
theorem scanLoop_of_enough {n m : Nat} {s : State} (hn : s.acc.length < 16 * n) (hm : s.acc.length < 16 * m) :
    scanLoop n s = scanLoop m s := by
  induction n generalizing m s with
  | zero => omega
  | succ n ih =>
    cases m with
    | zero => omega
    | succ m =>
      unfold scanLoop
      rcases hpass : passOnce s with ⟨f | why, u⟩
      · obtain ⟨hlen, hshort⟩ := length_of_passOnce_frame hpass
        exact ih (by simp only [emitRecord_acc]; omega) (by simp only [emitRecord_acc]; omega)
      · rfl

theorem scanLoop_eq_scanAll {n : Nat} {s : State} (hn : s.acc.length < 16 * n) : scanLoop n s = scanAll s :=
  scanLoop_of_enough hn (Nat.lt_mul_div_succ _ (by decide))

/-- Settles O25: `scanLoop_of_enough` and `length_of_passOnce_frame`. -/
theorem scanPassesSuffice : Obligations.ScanPassesSuffice := by
  unfold Obligations.ScanPassesSuffice
  refine ⟨fun s n hn => scanLoop_eq_scanAll (by omega), fun s t f hexec hret => ?extraction⟩
  case extraction =>
    obtain ⟨u, hpass, rfl⟩ := passOnce_of_exec_scanPass hexec hret
    rw [setRet_acc]
    exact length_of_passOnce_frame hpass

/-- After a pass that answers a frame, `SCAN` emits its record and scans again (R105). -/
theorem scanAll_of_frame {s u : State} {f : List Byte} (h : passOnce s = (.frame f, u)) :
    scanAll s = scanAll (emitRecord (recordOf u.cfg f) u) := by
  obtain ⟨hlen, hshort⟩ := length_of_passOnce_frame h
  calc scanAll s
    _ = scanLoop (s.acc.length / 16) (emitRecord (recordOf u.cfg f) u) := by rw [scanAll, scanLoop, h]
    _ = scanAll (emitRecord (recordOf u.cfg f) u) := scanLoop_eq_scanAll (by rw [emitRecord_acc]; omega)

/-- A pass that answers no frame is the whole `SCAN` (R105). -/
theorem scanAll_of_noFrame {s u : State} {why : Phase} (h : passOnce s = (.noFrame why, u)) : scanAll s = (why, u) := by
  rw [scanAll, scanLoop, h]

/-- `SCAN` as an instruction is the loop, with the reason it ends with left in `ret`. -/
theorem exec_scan (s : State) : exec .scan s = .next (setRet (.scanned (scanAll s).1) (scanAll s).2) := rfl

/-- A pass does not read what was returned before (R23). -/
theorem passOnce_setRet (r : Ret) (s : State) : passOnce (setRet r s) = ((passOnce s).1, setRet r (passOnce s).2) := by
  rcases passOnce_cases s with ⟨hh, heq⟩ | ⟨h, hh, hf, heq⟩ | ⟨h, f, hh, hf, hlen, heq⟩ | ⟨h, f, hh, hf, hlen, heq⟩ <;>
    rw [heq]
  case inl => exact passOnce_of_noHeader hh
  case inr.inl => exact passOnce_of_noFooter hh hf
  case inr.inr.inl => exact passOnce_of_noTrailer hh hf hlen
  case inr.inr.inr => exact passOnce_of_frame hh hf hlen

theorem scanLoop_setRet (n : Nat) (r : Ret) (s : State) :
    scanLoop n (setRet r s) = ((scanLoop n s).1, setRet r (scanLoop n s).2) := by
  induction n generalizing s with
  | zero => rfl
  | succ n ih =>
    unfold scanLoop
    rw [passOnce_setRet]
    rcases passOnce s with ⟨f | why, u⟩
    · exact ih (emitRecord (recordOf u.cfg f) u)
    · rfl

/-- What was returned before a `SCAN` makes no difference to it (R23). -/
theorem exec_scan_setRet (r : Ret) (s : State) : exec .scan (setRet r s) = exec .scan s := by
  have hscan : scanAll (setRet r s) = ((scanAll s).1, setRet r (scanAll s).2) := scanLoop_setRet _ r s
  rw [exec_scan, exec_scan, hscan]
  rfl

/-- Settles O22: `scanAll_of_frame` and `scanAll_of_noFrame`; the reason is on `ST_PHASE` by `passOnce_spec`. -/
theorem scanRepeatsPasses : Obligations.ScanRepeatsPasses := by
  unfold Obligations.ScanRepeatsPasses
  refine fun s t hexec => ⟨fun f hret => ?frame, fun why hret => ?noFrame⟩ <;>
    obtain ⟨u, hpass, rfl⟩ := passOnce_of_exec_scanPass hexec hret
  case frame =>
    refine ⟨setRet (.pass (.frame f)) (emitRecord (recordOf u.cfg f) u), rfl, ?_⟩
    rw [exec_scan_setRet, exec_scan, exec_scan, scanAll_of_frame hpass]
  case noFrame =>
    refine ⟨by rw [exec_scan, scanAll_of_noFrame hpass]; rfl, ?_⟩
    rcases passOnce_spec s with ⟨_, _, heq, -⟩ | ⟨a, heq, -⟩ <;> cases heq.symm.trans hpass
    rfl

/-- A pass over an accumulator at rest finds no frame and leaves all as it is (R30, R112). -/
theorem passOnce_of_atRest {s : State} (hrest : atRest s.acc = true) : passOnce s = (.noFrame (phaseOf s.acc), s) := by
  rcases (atRest_iff s.acc).mp hrest with ⟨hh, hlen⟩ | ⟨hpre, hshort⟩
  case inl => rw [passOnce_of_noHeader hh, phaseOf_of_noHeader hh, if_neg (Nat.not_lt.mpr hlen)]
  case inr =>
    have hh := findPat_of_prefix hdr_ne_nil hpre
    cases hf : findPat ftr s.acc 8 with
    | none => rw [passOnce_of_noFooter hh hf, phaseOf_of_noFooter hpre hf, List.drop_zero]
    | some f => rw [passOnce_of_noTrailer hh hf (hshort f hf), phaseOf_of_footer hpre hf, List.drop_zero]

/-- Settles O24: `SCAN` keeps a suffix of `ACC` at rest (`scanAll_spec`), and there `passOnce_of_atRest` says that a
second `SCAN` does nothing. -/
theorem scanIsIdempotent : Obligations.ScanIsIdempotent := by
  unfold Obligations.ScanIsIdempotent
  intro s t hexec
  obtain ⟨a, rs, hscan, hsuf, hrest, -⟩ := scanAll_spec s
  rw [exec_scan, hscan] at hexec
  cases hexec
  refine ⟨hsuf.length_le, ?_⟩
  rw [exec_scan_setRet, exec_scan, scanAll_of_noFrame (passOnce_of_atRest hrest)]
  rfl

end Sys2Proof.Machine
end

section
/-! PROOFS. The checksum (R125 to R129): the sum of the bytes, its range, and the comparison with the trailer. -/

namespace Sys2Proof.Machine

/-- `CSUM` is the sum of the bytes modulo 2^32 (R125). -/
theorem toNat_checksum (u : List Byte) : (checksum u).toNat = sumBytes u % 2 ^ 32 := BitVec.toNat_ofNat _ _

/-- The sum does not depend on the order of the bytes (R125). -/
theorem checksum_perm {u v : List Byte} (h : v.Perm u) : checksum v = checksum u :=
  congrArg (BitVec.ofNat 32) (h.map BitVec.toNat).sum_eq

/-- Each byte adds at most 255 (R129). -/
theorem sumBytes_le (u : List Byte) : sumBytes u ≤ u.length * 255 := by
  have hbyte : ∀ n ∈ u.map BitVec.toNat, n ≤ 255 := fun n hn => by
    obtain ⟨b, -, rfl⟩ := List.mem_map.mp hn
    exact Nat.le_of_lt_succ b.isLt
  calc sumBytes u ≤ (u.map BitVec.toNat).length • 255 := List.sum_le_card_nsmul _ _ hbyte
    _ = u.length * 255 := by rw [List.length_map, smul_eq_mul]

/-- The sum of as many bytes as a length field can declare does not wrap (R129). -/
theorem toNat_checksum_of_length_le {u : List Byte} (hlen : u.length ≤ 65535) :
    (checksum u).toNat = sumBytes u ∧ (checksum u).toNat ≤ 16711425 := by
  have hsum := sumBytes_le u
  have hexact : (checksum u).toNat = sumBytes u := by
    rw [toNat_checksum]
    exact Nat.mod_eq_of_lt (by omega)
  exact ⟨hexact, by omega⟩

/-- A word below 2^24 has the top byte 0. -/
theorem topByte_eq_zero {c : Checksum} (h : c.toNat < 2 ^ 24) : c.extractLsb' 24 8 = 0#8 := by
  apply BitVec.eq_of_toNat_eq
  rw [BitVec.extractLsb'_toNat, Nat.shiftRight_eq_div_pow, Nat.div_eq_of_lt h]
  rfl

/-- `VERIFY` is equality (R127). -/
theorem verifyFlag_iff (computed rx : Checksum) : verifyFlag computed rx = true ↔ computed = rx := beq_iff_eq

/-- The trailer's bytes determine the number they encode (R127). -/
theorem enc32_injective : Function.Injective enc32 := Function.LeftInverse.injective be32_enc32

/-- Settles O35: `toNat_checksum` and `checksum_perm`. -/
theorem checksumIsByteSum : Obligations.ChecksumIsByteSum := by
  unfold Obligations.ChecksumIsByteSum
  intro u s
  have hexec (v : List Byte) : exec (.csum v) s = .next { s with ret := .sum (checksum v) } := rfl
  refine ⟨checksum u, hexec u, toNat_checksum u, ?empty, fun v hperm => ?order⟩
  case empty => rintro rfl; rfl
  case order => rw [hexec, hexec, checksum_perm hperm]

/-- Settles O37: `verifyFlag_iff`, and `enc32_injective` for the bytes. -/
theorem verifyComparesAllBits : Obligations.VerifyComparesAllBits := by
  unfold Obligations.VerifyComparesAllBits
  intro a b s
  exact ⟨verifyFlag a b, rfl, verifyFlag_iff a b, (verifyFlag_iff a b).trans enc32_injective.eq_iff.symm⟩

end Sys2Proof.Machine
end

section
/-! PROOFS. `PARSE` (R121 to R127): all the fields of a candidate frame, and what a trailer has to do with them. -/

namespace Sys2Proof.Machine

/-- `PARSE` reads the trailer from the last 4 bytes (R126). -/
theorem parseFrame_csumRx (f : List Byte) : (parseFrame f).csumRx = be32 (f.drop (f.length - 4)) := by
  unfold parseFrame; split <;> rfl

/-- `PARSE` of a frame, by its layout: only the header fields depend on how long the payload is (R121). -/
theorem parseFrame_frameBytes {payload : List Byte} {c : Checksum} {h : Option HeaderFields}
    (hfields : (parseFrame (frameBytes payload c)).fields = h) :
    parseFrame (frameBytes payload c) = ⟨frameBytes payload c, payload.length + 16, c, h⟩ := by
  have hrx : (parseFrame (frameBytes payload c)).csumRx = c := by
    rw [parseFrame_csumRx, drop_frameBytes_trailer, be32_enc32]
  calc parseFrame (frameBytes payload c)
    _ = ⟨(parseFrame (frameBytes payload c)).raw, (parseFrame (frameBytes payload c)).rawLen,
          (parseFrame (frameBytes payload c)).csumRx, (parseFrame (frameBytes payload c)).fields⟩ := rfl
    _ = ⟨frameBytes payload c, payload.length + 16, c, h⟩ := by
      rw [parseFrame_raw, parseFrame_rawLen, frameBytes_length, hrx, hfields]

/-- A payload of fewer than 4 bytes has no header fields (R122). -/
theorem parseFrame_short_fields {payload : List Byte} (hshort : payload.length < 4) (c : Checksum) :
    (parseFrame (frameBytes payload c)).fields = none := by
  unfold parseFrame
  rw [slice_frameBytes_payload]
  split
  case h_1 => simp only [List.length_cons] at hshort; omega
  case h_2 => rfl

/-- The header fields with the clipped length written out (R123 to R127). -/
theorem headerFields_eq (len : BitVec 16) (dev mode : Byte) (rest : List Byte) (rx : Checksum) :
    headerFields len dev mode rest rx =
      { len := len, dev := dev, mode := mode, avail := rest.length
        ulen := BitVec.ofNat 16 (min len.toNat rest.length)
        incomplete := decide (rest.length < len.toNat)
        csumCalc := checksum (rest.take len.toNat)
        valid := decide (checksum (rest.take len.toNat) = rx) } := by
  have hulen : (BitVec.ofNat 16 (min len.toNat rest.length)).toNat = min len.toNat rest.length :=
    headerFields_ulen len dev mode rest rx
  unfold headerFields
  dsimp only
  rw [hulen, ← List.take_eq_take_min]
  rfl

/-- `PARSE` of a frame that has its PacketHeader fields (R121). -/
theorem parseFrame_restFrame (mode : Byte) (r : FrameRest) :
    parseFrame (restFrame mode r) = ⟨restFrame mode r, r.body.length + 20, r.csum,
      some (headerFields r.len r.dev mode r.body r.csum)⟩ := by
  have hparse := parseFrame_frameBytes (parseFrame_restFrame_fields mode r)
  rwa [restPayload_length] at hparse

/-- Whatever bytes `PARSE` finds fields in, it makes them of bytes that follow the header and of the trailer. -/
theorem exists_headerFields {f : List Byte} {h : HeaderFields} (hfields : (parseFrame f).fields = some h) :
    ∃ len dev mode rest, h = headerFields len dev mode rest (parseFrame f).csumRx := by
  rw [parseFrame_csumRx]
  unfold parseFrame at hfields
  split at hfields
  case h_1 => exact ⟨_, _, _, _, (Option.some_inj.mp hfields).symm⟩
  case h_2 => cases hfields

/-- `VALID` compares `CSUM_CALC` with the trailer (R127). -/
theorem headerFields_valid_iff (len : BitVec 16) (dev mode : Byte) (rest : List Byte) (rx : Checksum) :
    (headerFields len dev mode rest rx).valid = true ↔ (headerFields len dev mode rest rx).csumCalc = rx :=
  verifyFlag_iff _ _

/-- The trailer enters no field but `VALID` (R130). -/
theorem headerFields_trailer (len : BitVec 16) (dev mode : Byte) (rest : List Byte) (rx c : Checksum) :
    headerFields len dev mode rest c =
      { headerFields len dev mode rest rx with
        valid := verifyFlag (headerFields len dev mode rest rx).csumCalc c } := rfl

/-- `CSUM_CALC` of any frame is a sum of at most 65535 bytes (R129). -/
theorem headerFields_csumCalc_le (len : BitVec 16) (dev mode : Byte) (rest : List Byte) (rx : Checksum) :
    (headerFields len dev mode rest rx).csumCalc.toNat ≤ 16711425 := by
  rw [headerFields_eq]
  have hlen := len.isLt
  exact (toNat_checksum_of_length_le (by rw [List.length_take]; omega)).2

/-- Settles O34: `parseFrame_short_fields`, and `parseFrame_restFrame` with `headerFields_eq`. -/
theorem parseGivesFrameFields : Obligations.ParseGivesFrameFields := by
  unfold Obligations.ParseGivesFrameFields
  have hexec (f : List Byte) (s : State) : exec (.parse f) s = .next { s with ret := .parsed (parseFrame f) } := rfl
  refine ⟨fun payload c s hshort => ?short, fun m f s => ?fields⟩
  case short => rw [hexec, parseFrame_frameBytes (parseFrame_short_fields hshort c)]
  case fields => rw [hexec, parseFrame_restFrame, headerFields_eq]

/-- Settles O36: `toNat_checksum_of_length_le`; what `PARSE` sums is no longer than a length field can say. -/
theorem checksumNeverReachesTopByte : Obligations.ChecksumNeverReachesTopByte := by
  unfold Obligations.ChecksumNeverReachesTopByte
  refine ⟨fun u hlen => toNat_checksum_of_length_le hlen, fun f h hfields => ?parsed⟩
  case parsed =>
    obtain ⟨len, dev, mode, rest, rfl⟩ := exists_headerFields hfields
    have hle := headerFields_csumCalc_le len dev mode rest (parseFrame f).csumRx
    refine ⟨hle, topByte_eq_zero (by omega), fun hvalid => ?_⟩
    rwa [(headerFields_valid_iff ..).mp hvalid] at hle

/-- Settles O38: the payload alone makes the frame a candidate, and only `VALID` depends on the trailer. -/
theorem trailerChangeInvalidates : Obligations.TrailerChangeInvalidates := by
  unfold Obligations.TrailerChangeInvalidates
  intro m f c hframed hvalid hne
  have hcand : isCandidate (restFrame m { f with csum := c }) = true :=
    isCandidate_of_splitFrame (splitFrame_frameBytes hframed c)
  have hok : (headerFields f.len f.dev m f.body f.csum).valid = true := (headerFields_valid m f).trans hvalid
  have hbad : verifyFlag (headerFields f.len f.dev m f.body f.csum).csumCalc c = false := by
    rw [(headerFields_valid_iff ..).mp hok]
    exact beq_false_of_ne hne.symm
  refine ⟨hcand, _, parseFrame_restFrame_fields m f, hok, ?_⟩
  rw [parseFrame_restFrame_fields, headerFields_trailer _ _ _ _ f.csum, hbad]

end Sys2Proof.Machine
end

section
/-! PROOFS. The bytes of a frame that arrive one by one (R132): what `ACC` holds of a part of the frame, and the record
at its last byte. -/

namespace Sys2Proof.Machine

open Sys2Proof.Config

/-! A run of `PUSH` (R162). -/

/-- A run of `PUSH` is one instruction after the other. -/
theorem execAll_push (c : List Byte) (s : State) : execAll (c.map Instr.push) s = .next (pushAll c s) := by
  induction c generalizing s with
  | nil => rfl
  | cons b c ih => exact ih (pushByte b s)

theorem pushAll_concat (c : List Byte) (b : Byte) (s : State) : pushAll (c ++ [b]) s = pushByte b (pushAll c s) :=
  List.foldl_concat ..

/-- A `PUSH` with room after which a pass finds no frame is that pass (R105, R162). -/
theorem pushByte_of_noFrame {b : Byte} {s u : State} {why : Phase} (hroom : accCap s.cfg ≠ some s.acc.length)
    (hpass : passOnce (appendBytes [b] s) = (.noFrame why, u)) : pushByte b s = u := by
  rw [pushByte_of_room b hroom, scanAll_of_noFrame hpass]

/-! The header, byte by byte (R65, R102). -/

/-- A header that stands only once a byte has arrived ends with that byte. -/
theorem header_ends_with_new_byte {a : List Byte} {b : Byte} {j : Nat} (hno : findPat hdr a 0 = none)
    (hpre : hdr <+: (a ++ [b]).drop j) : a.length + 1 = j + 8 := by
  have hin := hpre.length_le
  rw [hdr_length, List.length_drop, List.length_append, List.length_singleton] at hin
  have hnew : ¬ j + hdr.length ≤ a.length := fun hold =>
    (findPat_eq_none hdr_ne_nil).mp hno j (Nat.zero_le j) (prefix_drop_of_append hold hpre)
  rw [hdr_length] at hnew
  omega

/-- While what stands ends in the first bytes of a header, not in all of them, no header stands: two would overlap
(R65). -/
theorem noHeader_of_part {a x : List Byte} {b : Byte} (hno : findPat hdr a 0 = none) (hx : x ++ [b] <+: hdr)
    (hlen : x.length + 1 < 8) (hend : x ++ [b] <:+ a ++ [b]) : findPat hdr (a ++ [b]) 0 = none := by
  refine (findPat_eq_none hdr_ne_nil).mpr fun j _ hpre => ?_
  have hlast := header_ends_with_new_byte hno hpre
  have hhdr : hdr = (a ++ [b]).drop j :=
    hpre.eq_of_length (by rw [hdr_length, List.length_drop, List.length_append, List.length_singleton]; omega)
  have hpart : x ++ [b] <:+ hdr := by
    refine List.suffix_of_suffix_length_le hend (hhdr ▸ List.drop_suffix j _) ?_
    rw [List.length_append, List.length_singleton, hdr_length]
    omega
  rw [List.suffix_iff_eq_drop.mp hpart, List.length_append, List.length_singleton, hdr_length] at hx
  exact hdr_not_agrees_hdr (d := 8 - (x.length + 1)) (by omega) (by omega) (.inl hx)

/-- When the last byte of a header arrives, that header is the first (R102). -/
theorem findPat_hdr_of_completed {a w : List Byte} {b : Byte} (hno : findPat hdr a 0 = none)
    (hcut : a ++ [b] = w ++ hdr) : findPat hdr (a ++ [b]) 0 = some w.length := by
  refine (findPat_eq_some hdr_ne_nil).mpr ⟨Nat.zero_le _, ?_, fun j _ hj hpre => ?_⟩
  · rw [hcut, List.drop_left]
  · have hlast := header_ends_with_new_byte hno hpre
    have hlen := congrArg List.length hcut
    rw [List.length_append, List.length_append, List.length_singleton, hdr_length] at hlen
    omega

/-! A part of a frame in `ACC`. -/

/-- What `ACC` holds of the bytes `x` at the front of a frame: up to the header, a residue that ends in them (R30); from
then on, just these bytes. -/
inductive HoldsPart : List Byte → List Byte → Prop
  | inHeader {x a : List Byte} (hx : x.length < 8) (hno : findPat hdr a 0 = none) (hlen : a.length ≤ 8)
      (hend : x <:+ a) : HoldsPart x a
  | fromHeader {x : List Byte} (hx : 8 ≤ x.length) : HoldsPart x x

theorem HoldsPart.length_le {x a : List Byte} (h : HoldsPart x a) : a.length ≤ max 8 x.length := by
  cases h with
  | inHeader _ _ hlen => exact le_max_of_le_left hlen
  | fromHeader => exact le_max_right _ _

/-- At rest in the phase "need header" a frame can begin (R30). -/
theorem HoldsPart.nil_of_needHeader {a : List Byte} (hrest : atRest a = true) (hphase : phaseOf a = .needHeader) :
    HoldsPart [] a := by
  have hshape : restShape .needHeader a = true := by rwa [atRest, hphase] at hrest
  obtain ⟨hlen, hno⟩ := Bool.and_eq_true_iff.mp hshape
  exact .inHeader (by decide) (beq_iff_eq.mp hno) (of_decide_eq_true hlen) a.nil_suffix

/-- `b` joins the part `x` of a frame: the pass after it finds no frame, and `ACC` holds one byte more of the frame
(R102 to R104). -/
def Joins (x : List Byte) (b : Byte) (s : State) : Prop :=
  ∃ why a, passOnce (appendBytes [b] s) = (.noFrame why, { s with acc := a }) ∧ HoldsPart (x ++ [b]) a

/-- A byte of the header but its last joins: what the trim leaves still ends in the bytes of the header (R102). -/
theorem joins_of_headerPart {x : List Byte} {b : Byte} {s : State} (hx : x ++ [b] <+: hdr) (hlen : x.length + 1 < 8)
    (hno : findPat hdr s.acc 0 = none) (hend : x <:+ s.acc) : Joins x b s := by
  have hend' : x ++ [b] <:+ s.acc ++ [b] := List.suffix_append_self_iff.mpr hend
  have hno' : findPat hdr (appendBytes [b] s).acc 0 = none := noHeader_of_part hno hx hlen hend'
  have hxlen : (x ++ [b]).length < 8 := by rwa [List.length_append]
  refine ⟨_, _, passOnce_of_noHeader hno', ?_⟩
  rw [appendBytes_acc] at hno' ⊢
  split
  case isTrue htrim =>
    have hkept : ((s.acc ++ [b]).drop ((s.acc ++ [b]).length - 7)).length = 7 := by rw [List.length_drop]; omega
    refine .inHeader hxlen (findPat_drop_eq_none hdr_ne_nil _ hno') (by omega) ?_
    exact List.suffix_of_suffix_length_le hend' (List.drop_suffix _ _) (by omega)
  case isFalse hle => exact .inHeader hxlen hno' (Nat.not_lt.mp hle) hend'

/-- The last byte of the header joins: the residue before the header goes (R103). -/
theorem joins_of_headerEnd {x : List Byte} {b : Byte} {s : State} (hx : x ++ [b] = hdr)
    (hno : findPat hdr s.acc 0 = none) (hend : x <:+ s.acc) : Joins x b s := by
  obtain ⟨w, hw⟩ := hend
  have hcut : s.acc ++ [b] = w ++ hdr := by rw [← hw, List.append_assoc, hx]
  have hh : findPat hdr (appendBytes [b] s).acc 0 = some w.length := findPat_hdr_of_completed hno hcut
  have hf : findPat ftr (appendBytes [b] s).acc (w.length + 8) = none := by
    rw [findPat_add_start, appendBytes_acc, hcut, List.drop_left]
    rfl
  refine ⟨_, _, passOnce_of_noFooter hh hf, ?_⟩
  rw [appendBytes_acc, hcut, List.drop_left, hx]
  exact .fromHeader (Nat.le_refl _)

/-- A byte after the header joins if what then stands is at rest (R30). -/
theorem joins_of_atRest {x : List Byte} {b : Byte} {s : State} (hlen : 8 ≤ x.length) (hacc : s.acc = x)
    (hrest : atRest (x ++ [b]) = true) : Joins x b s := by
  subst hacc
  exact ⟨_, _, passOnce_of_atRest hrest, .fromHeader (by rw [List.length_append]; omega)⟩

/-- The first bytes of a frame are those of `HDR` (R64). -/
theorem prefix_hdr_of_frame {payload x : List Byte} {c : Checksum} (hx : x <+: frameBytes payload c) :
    x <+: hdr ∨ hdr <+: x := by
  refine List.prefix_or_prefix_of_prefix hx ?_
  simp only [frameBytes, List.append_assoc]
  exact List.prefix_append _ _

/-- A part of a frame that has the header is at rest: its first footer, if it has come, is the frame's own (R30,
R104). -/
theorem atRest_of_framePart {payload x : List Byte} {c : Checksum} (hframed : framed payload = true)
    (hx : x <+: frameBytes payload c) (hhdr : hdr <+: x) (hshort : x.length < (frameBytes payload c).length) :
    atRest x = true := by
  refine (atRest_iff x).mpr (.inr ⟨hhdr, fun f hf => ?_⟩)
  obtain ⟨rest, hrest⟩ := hx
  have hfoot := findPat_append ftr_ne_nil hf rest
  rw [hrest, (framed_iff_findPat payload c).mp hframed] at hfoot
  cases hfoot
  rwa [frameBytes_length] at hshort

/-- Every byte of a frame but its last joins. -/
theorem HoldsPart.joins {payload x : List Byte} {c : Checksum} {b : Byte} {s : State} (hframed : framed payload = true)
    (hx : x ++ [b] <+: frameBytes payload c) (hshort : x.length + 1 < (frameBytes payload c).length)
    (hpart : HoldsPart x s.acc) : Joins x b s := by
  have hxlen : (x ++ [b]).length = x.length + 1 := List.length_append
  generalize hacc : s.acc = a at hpart
  cases hpart with
  | inHeader hlen hno _ hend =>
    subst hacc
    rcases prefix_hdr_of_frame hx with hpre | hpre
    case inl =>
      rcases Nat.lt_or_ge (x.length + 1) 8 with hmore | hall
      · exact joins_of_headerPart hpre hmore hno hend
      · exact joins_of_headerEnd (hpre.eq_of_length_le (by rwa [hxlen])) hno hend
    case inr => exact joins_of_headerEnd (hpre.eq_of_length_le (by rw [hxlen]; exact hlen)).symm hno hend
  | fromHeader hlen =>
    have hhdr : hdr <+: x ++ [b] := by
      rcases prefix_hdr_of_frame hx with hpre | hpre
      · have hle := hpre.length_le
        rw [hxlen, hdr_length] at hle
        omega
      · exact hpre
    exact joins_of_atRest hlen hacc (atRest_of_framePart hframed hx hhdr (by rwa [hxlen]))

/-! The run over a frame (R132). -/

section
variable {payload : List Byte} {c : Checksum} {s : State} (hframed : framed payload = true)
  (hcap : ∀ n, accCap s.cfg = some n → (frameBytes payload c).length ≤ n)
include hcap

/-- While a part of the frame stands, the accumulator is not full (R162). -/
theorem HoldsPart.room {x a : List Byte} (hpart : HoldsPart x a) (hshort : x.length < (frameBytes payload c).length) :
    accCap s.cfg ≠ some a.length := fun hfull => by
  have hlen := hpart.length_le
  have hframe := hcap _ hfull
  rw [frameBytes_length] at hframe hshort
  omega

include hframed

/-- Pushing a part of a frame leaves that part in `ACC` and changes nothing else. -/
theorem pushAll_framePart {x : List Byte} (hstart : HoldsPart [] s.acc) (hx : x <+: frameBytes payload c)
    (hshort : x.length < (frameBytes payload c).length) :
    ∃ a, pushAll x s = { s with acc := a } ∧ HoldsPart x a := by
  induction x using List.reverseRecOn with
  | nil => exact ⟨s.acc, rfl, hstart⟩
  | append_singleton x b ih =>
    rw [List.length_append, List.length_singleton] at hshort
    obtain ⟨a, hrun, hpart⟩ := ih ((List.prefix_append x [b]).trans hx) (by omega)
    obtain ⟨why, a', hpass, hpart'⟩ := HoldsPart.joins (s := { s with acc := a }) hframed hx hshort hpart
    have hroom : accCap s.cfg ≠ some a.length := hpart.room hcap (by omega)
    exact ⟨a', by rw [pushAll_concat, hrun, pushByte_of_noFrame hroom hpass], hpart'⟩

/-- Pushing a whole frame emits its record and leaves `ACC` empty (R104, R105). -/
theorem pushAll_frame_of_needHeader (hstart : HoldsPart [] s.acc) :
    pushAll (frameBytes payload c) s = emitRecord (recordOf s.cfg (frameBytes payload c)) { s with acc := [] } := by
  have hlen := frameBytes_length payload c
  obtain ⟨x, b, hcut⟩ : ∃ x b, frameBytes payload c = x ++ [b] :=
    (List.eq_nil_or_concat' _).resolve_left (List.ne_nil_of_length_pos (by omega))
  have hxlen := congrArg List.length hcut
  rw [List.length_append, List.length_singleton] at hxlen
  obtain ⟨a, hrun, hpart⟩ := pushAll_framePart hframed hcap hstart ⟨[b], hcut.symm⟩ (by omega)
  have hroom : accCap s.cfg ≠ some a.length := hpart.room hcap (by omega)
  have hpass : passOnce (appendBytes [b] { s with acc := x }) = (.frame (frameBytes payload c), { s with acc := [] }) :=
    passOnce_of_frameBytes hframed (by rw [List.append_nil, hcut]; rfl)
  cases hpart with
  | inHeader hx => omega
  | fromHeader =>
    conv_lhs => rw [hcut]
    rw [pushAll_concat, hrun, pushByte_of_room b hroom, scanAll_of_frame hpass,
      scanAll_of_noFrame (passOnce_of_empty rfl)]

end

/-! The record of `FRAME(dev, mode, u)` (R77, R132). -/

theorem frameOf_length (dev mode : Byte) (u : List Byte) : (frameOf dev mode u).length = 20 + u.length := by
  rw [frameOf, restFrame, frameBytes_length, restPayload_length]
  dsimp only [truthfulRest]
  omega

/-- Useful data of at most 65535 bytes has its length in the length field (R77). -/
theorem toNat_truthfulRest_len (dev : Byte) {u : List Byte} (hlen : u.length ≤ 65535) :
    (truthfulRest dev u).len.toNat = u.length := by
  rw [truthfulRest, BitVec.toNat_ofNat]
  omega

/-- The useful data of such a frame is all of `u` (R124). -/
theorem restUseful_truthfulRest (dev : Byte) {u : List Byte} (hlen : u.length ≤ 65535) :
    restUseful (truthfulRest dev u) = u := by
  rw [restUseful, toNat_truthfulRest_len dev hlen]
  exact List.take_length

/-- `PARSE` gives back what was encoded, and the frame is valid (R132). -/
theorem parseFrame_frameOf (dev mode : Byte) {u : List Byte} (hlen : u.length ≤ 65535) :
    parseFrame (frameOf dev mode u) = ⟨frameOf dev mode u, u.length + 20, checksum u,
      some { len := BitVec.ofNat 16 u.length, dev := dev, mode := mode, avail := u.length
             ulen := BitVec.ofNat 16 u.length, incomplete := false, csumCalc := checksum u, valid := true }⟩ := by
  have hnat : (BitVec.ofNat 16 u.length).toNat = u.length := toNat_truthfulRest_len dev hlen
  rw [frameOf, parseFrame_restFrame, headerFields_eq]
  simp [truthfulRest, hnat]

/-- The view of the useful data gives back `u` (R74, R132). -/
theorem usefulData_frameOf (dev mode : Byte) {u : List Byte} (hlen : u.length ≤ 65535) :
    usefulData (parseFrame (frameOf dev mode u)) = some u := by
  rw [usefulData, frameOf, parseFrame_restFrame_fields, parseFrame_raw, Option.map_some, slice_restFrame_useful,
    restUseful_truthfulRest dev hlen]

/-- Settles O58: the run is `pushAll_framePart` up to the last byte and `pushAll_frame_of_needHeader` with it; the record
is `parseFrame_frameOf`. -/
theorem wellFormedFrameRoundTrip : Obligations.WellFormedFrameRoundTrip := by
  unfold Obligations.WellFormedFrameRoundTrip
  intro s dev mode u hlen hframed hrest hphase hcap
  dsimp only
  have hstart : HoldsPart [] s.acc := .nil_of_needHeader hrest hphase
  have hroom : ∀ n, accCap s.cfg = some n → (frameOf dev mode u).length ≤ n := fun n hn => by
    rw [frameOf_length]
    exact hcap n hn
  rw [recordOf, demuxFrame_parsed]
  refine ⟨?run, parseFrame_frameOf dev mode hlen, usefulData_frameOf dev mode hlen, fun k hk => ?before⟩
  case run =>
    rw [execAll_push]
    exact congrArg Host.Outcome.next (pushAll_frame_of_needHeader hframed hroom hstart)
  case before =>
    have hshort : ((frameOf dev mode u).take k).length < (frameOf dev mode u).length := by
      rwa [List.length_take, Nat.min_eq_left hk.le]
    obtain ⟨a, hrun, -⟩ := pushAll_framePart hframed hroom hstart (List.take_prefix k _) hshort
    exact ⟨{ s with acc := a }, (execAll_push _ s).trans (congrArg Host.Outcome.next hrun), rfl⟩

end Sys2Proof.Machine
end

section
/-! PROOFS. `CS_MATCH`, `CS_DECODE` and `DEMUX` (R141 to R150): what each answers, that they ask the constants alone,
and the variant of the record they make. -/

namespace Sys2Proof.Machine

open Sys2Proof.Config

/-! The table (R143, R144). -/

theorem exec_csMatch (u : List Byte) (s : State) :
    exec (.csMatch u) s = .next { s with ret := .entry (matchVector s.cfg u) } := rfl

/-- Where the vectors are distinct, a lookup answers any entry with the vector, not the first alone (R73, R143). -/
theorem matchVector_eq_some_iff {p : Params} (hdistinct : tableDistinct p = true) {u : List Byte} {op : CsOp}
    {ph : CsPhase} : matchVector p u = some (op, ph) ↔ (⟨u, op, ph⟩ : CsEntry) ∈ csTable p := by
  refine ⟨matchVector_mem, fun hmem => ?_⟩
  cases hmatch : matchVector p u with
  | none => exact absurd rfl (matchVector_none hmatch _ hmem)
  | some answer =>
    have hanswer : (⟨u, answer.1, answer.2⟩ : CsEntry) ∈ csTable p := matchVector_mem hmatch
    have hnodup : ((csTable p).map CsEntry.vector).Nodup := of_decide_eq_true hdistinct
    cases List.inj_on_of_nodup_map hnodup hanswer hmem rfl
    rfl

/-- A lookup answers nothing exactly for a vector that no entry has (R144). -/
theorem matchVector_eq_none_iff {p : Params} {u : List Byte} :
    matchVector p u = none ↔ ∀ e ∈ csTable p, e.vector ≠ u := by
  refine ⟨matchVector_none, fun hno => ?_⟩
  cases hmatch : matchVector p u with
  | none => rfl
  | some answer => exact absurd rfl (hno _ (matchVector_mem hmatch))

/-- Settles O41: `matchVector_eq_some_iff` is the lookup of R143. -/
theorem matchIsTableLookup : Obligations.MatchIsTableLookup := by
  unfold Obligations.MatchIsTableLookup
  exact fun u s hdistinct => ⟨_, exec_csMatch u s, fun _ _ => matchVector_eq_some_iff hdistinct⟩

/-! `CS_DECODE` (R142) and `DEMUX` (R141), by what `PARSE` found. -/

theorem exec_csDecode (p : Parsed) (s : State) :
    exec (.csDecode p) s = .next { s with ret := .status (decodeStatus s.cfg p) } := rfl

theorem exec_demux (p : Parsed) (s : State) :
    exec (.demux p) s = .next { s with ret := .record (demuxFrame s.cfg p) } := rfl

section
variable {c : Params} {p : Parsed} {h : HeaderFields}

/-- A frame with header fields has useful data (R74). -/
theorem usefulData_of_fields (hfields : p.fields = some h) :
    usefulData p = some (slice p.raw 12 (12 + h.ulen.toNat)) := by
  rw [usefulData, hfields, Option.map_some]

/-- The table is not consulted for an invalid frame (R142). -/
theorem decodeStatus_of_invalid (hfields : p.fields = some h) (hvalid : h.valid = false) :
    decodeStatus c p = .skipped := by
  rw [decodeStatus, hfields]
  simp [hvalid]

/-- The useful data of a valid frame is looked up (R142). -/
theorem decodeStatus_of_valid (hfields : p.fields = some h) (hvalid : h.valid = true) {u : List Byte}
    (huseful : usefulData p = some u) : decodeStatus c p = lookupResult (matchVector c u) := by
  cases (usefulData_of_fields hfields).symm.trans huseful
  rw [decodeStatus, hfields]
  exact if_pos hvalid

/-- A frame without a mode byte goes to DATA (R141, R147). -/
theorem demuxFrame_of_noFields (hfields : p.fields = none) : demuxFrame c p = ⟨.data, p, none, .absent⟩ := by
  rw [demuxFrame, hfields]

/-- A mode-0x00 frame goes to CS with what `CS_DECODE` says of it (R141). -/
theorem demuxFrame_of_status (hfields : p.fields = some h) (hmode : h.mode = 0x00#8) :
    demuxFrame c p = ⟨.cs, p, some true, decodeStatus c p⟩ := by
  rw [demuxFrame, hfields]
  exact if_pos hmode

/-- A frame of any other mode goes to DATA, and the table is not consulted (R141, R146). -/
theorem demuxFrame_of_data (hfields : p.fields = some h) (hmode : h.mode ≠ 0x00#8) :
    demuxFrame c p = ⟨.data, p, some (modeKnownFlag h.mode), .absent⟩ := by
  rw [demuxFrame, hfields]
  exact if_neg hmode

end

/-- The known modes that carry no command status (R71). -/
theorem modeKnownFlag_iff_of_ne_zero {mode : Byte} (hmode : mode ≠ 0x00#8) :
    modeKnownFlag mode = true ↔ mode ∈ [0x01#8, 0x02#8, 0x03#8, 0x04#8, 0x05#8, 0x07#8] := by
  rw [modeKnownFlag, modeKnownSet, List.contains_iff_mem, List.mem_cons, or_iff_right hmode]

/-- Settles O39: the three routes are `demuxFrame_of_noFields`, `demuxFrame_of_status` and `demuxFrame_of_data`. -/
theorem demuxRoutesByMode : Obligations.DemuxRoutesByMode := by
  unfold Obligations.DemuxRoutesByMode
  refine fun p s => ⟨_, exec_demux p s, demuxFrame_parsed s.cfg p, fun hfields => ?noFields,
    fun f hfields => ⟨fun hmode => ?status, fun hmode => ?data⟩⟩
  case noFields =>
    rw [demuxFrame_of_noFields hfields]
    exact ⟨rfl, rfl, rfl⟩
  case status =>
    rw [demuxFrame_of_status hfields hmode]
    exact ⟨rfl, rfl, exec_csDecode p s⟩
  case data =>
    rw [demuxFrame_of_data hfields hmode]
    exact ⟨rfl, rfl, Option.some_inj.trans (modeKnownFlag_iff_of_ne_zero hmode), Option.some_ne_none _⟩

/-- What `DEMUX` makes of a frame, by the conditions of R150: the variant, the port, and the command-status result. -/
inductive HasVariant (c : Params) (p : Parsed) : Variant → Port → CsResult → Prop
  | malformed (hfields : p.fields = none) : HasVariant c p .malformed .data .absent
  | data {h : HeaderFields} (hfields : p.fields = some h) (hmode : h.mode ≠ 0x00#8) :
      HasVariant c p .data .data .absent
  | invalid {h : HeaderFields} (hfields : p.fields = some h) (hmode : h.mode = 0x00#8) (hvalid : h.valid = false) :
      HasVariant c p .cmdStatusInvalid .cs .skipped
  | unknown {h : HeaderFields} {u : List Byte} (hfields : p.fields = some h) (hmode : h.mode = 0x00#8)
      (hvalid : h.valid = true) (huseful : usefulData p = some u) (hmatch : matchVector c u = none) :
      HasVariant c p .cmdStatusUnknown .cs .unknown
  | known {h : HeaderFields} {u : List Byte} {op : CsOp} {ph : CsPhase} (hfields : p.fields = some h)
      (hmode : h.mode = 0x00#8) (hvalid : h.valid = true) (huseful : usefulData p = some u)
      (hmatch : matchVector c u = some (op, ph)) : HasVariant c p (.cmdStatusKnown op ph) .cs (.known op ph)

/-- The conditions of R150 leave no frame out. -/
theorem exists_hasVariant (c : Params) (p : Parsed) : ∃ v port cs, HasVariant c p v port cs := by
  cases hfields : p.fields with
  | none => exact ⟨_, _, _, .malformed hfields⟩
  | some h =>
    by_cases hmode : h.mode = 0x00#8
    case neg => exact ⟨_, _, _, .data hfields hmode⟩
    case pos =>
      have huseful := usefulData_of_fields hfields
      cases hvalid : h.valid with
      | false => exact ⟨_, _, _, .invalid hfields hmode hvalid⟩
      | true =>
        cases hmatch : matchVector c (slice p.raw 12 (12 + h.ulen.toNat)) with
        | none => exact ⟨_, _, _, .unknown hfields hmode hvalid huseful hmatch⟩
        | some answer => exact ⟨_, _, _, .known hfields hmode hvalid huseful hmatch⟩

/-- The record `DEMUX` makes is of the variant whose condition holds (R150). -/
theorem HasVariant.demuxFrame_eq {c : Params} {p : Parsed} {v : Variant} {port : Port} {cs : CsResult}
    (hv : HasVariant c p v port cs) :
    variantOf (demuxFrame c p) = v ∧ (demuxFrame c p).port = port ∧ (demuxFrame c p).cs = cs := by
  cases hv with
  | malformed hfields =>
    rw [demuxFrame_of_noFields hfields]
    simp [variantOf, hfields]
  | data hfields hmode =>
    rw [demuxFrame_of_data hfields hmode]
    simp [variantOf, hfields, hmode]
  | invalid hfields hmode hvalid =>
    rw [demuxFrame_of_status hfields hmode, decodeStatus_of_invalid hfields hvalid]
    simp [variantOf, hfields, hmode, hvalid]
  | unknown hfields hmode hvalid huseful hmatch | known hfields hmode hvalid huseful hmatch =>
    rw [demuxFrame_of_status hfields hmode, decodeStatus_of_valid hfields hvalid huseful, hmatch]
    simp [variantOf, lookupResult, hfields, hmode, hvalid]

/-- The record `DEMUX` makes, with the condition of its variant (R150). -/
theorem hasVariant_demuxFrame (c : Params) (p : Parsed) :
    HasVariant c p (variantOf (demuxFrame c p)) (demuxFrame c p).port (demuxFrame c p).cs := by
  obtain ⟨v, port, cs, hv⟩ := exists_hasVariant c p
  obtain ⟨hvariant, hport, hcs⟩ := hv.demuxFrame_eq
  rwa [hvariant, hport, hcs]

/-- An event is raised for a record that has an operation and a phase (R75, R145). -/
theorem csEvent_valid_iff_known (r : Record) : (csEvent r).valid = true ↔ ∃ op ph, r.cs = .known op ph :=
  (csEvent_valid_iff r).trans (csKindCode_eq_known_iff r.cs)

/-- Settles O40: `CS_DECODE` by the validity of the frame; a record with an event is of the variant `known`. -/
theorem statusDecodeGate : Obligations.StatusDecodeGate := by
  unfold Obligations.StatusDecodeGate
  refine ⟨fun p f s hfields _ => ⟨fun hvalid => ?invalid, fun hvalid => ⟨_, exec_csMatch _ s, ?valid⟩⟩,
    fun c p hevent => ?event⟩
  case invalid => rw [exec_csDecode, decodeStatus_of_invalid hfields hvalid]
  case valid =>
    rw [exec_csDecode, decodeStatus_of_valid hfields hvalid (usefulData_of_fields hfields)]
    exact ⟨fun hmatch => by rw [hmatch]; rfl, fun _ _ hmatch => by rw [hmatch]; rfl⟩
  case event =>
    obtain ⟨op, ph, hcs⟩ := (csEvent_valid_iff_known _).mp hevent
    have hv := hasVariant_demuxFrame c p
    rw [hcs] at hv
    generalize variantOf (demuxFrame c p) = v, (demuxFrame c p).port = port at hv ⊢
    cases hv with
    | known hfields hmode hvalid => exact ⟨rfl, _, hfields, hmode, hvalid⟩

section
variable {c : Params} {p : Parsed} {v : Variant} {port : Port} {cs : CsResult}

/-- A record is of a variant exactly if the condition of the variant holds (R150). -/
theorem variantOf_demuxFrame_iff : variantOf (demuxFrame c p) = v ↔ ∃ port cs, HasVariant c p v port cs := by
  constructor
  · rintro rfl
    exact ⟨_, _, hasVariant_demuxFrame c p⟩
  · rintro ⟨port, cs, hv⟩
    exact hv.demuxFrame_eq.1

/-- Malformed frames and those of another mode stand on DATA, the others on CS (R141, R150). -/
theorem HasVariant.port_eq_data_iff (hv : HasVariant c p v port cs) :
    port = .data ↔ v = .malformed ∨ v = .data := by
  cases hv <;> simp

/-- The record of a known vector alone is `KNOWN` (R143, R150). -/
theorem HasVariant.known_iff (hv : HasVariant c p v port cs) (op : CsOp) (ph : CsPhase) :
    cs = .known op ph ↔ v = .cmdStatusKnown op ph := by
  cases hv <;> simp

/-- The record of an invalid mode-0x00 frame alone is `SKIPPED` (R142, R150). -/
theorem HasVariant.skipped_iff (hv : HasVariant c p v port cs) : cs = .skipped ↔ v = .cmdStatusInvalid := by
  cases hv <;> simp

end

/-- Settles O60: the conditions are those of `HasVariant`, the lookup being membership where vectors are distinct. -/
theorem recordVariantAsCondition : Obligations.RecordVariantAsCondition := by
  unfold Obligations.RecordVariantAsCondition
  intro c f hdistinct
  dsimp only
  rw [recordOf, demuxFrame_parsed, csEvent_valid_iff_known]
  generalize parseFrame f = p
  have hrecord := hasVariant_demuxFrame c p
  refine ⟨variantOf_demuxFrame_iff.trans ?malformed, fun op ph => variantOf_demuxFrame_iff.trans ?known,
    variantOf_demuxFrame_iff.trans ?unknown, variantOf_demuxFrame_iff.trans ?invalid,
    variantOf_demuxFrame_iff.trans ?data, hrecord.port_eq_data_iff,
    exists_congr fun op => exists_congr fun ph => hrecord.known_iff op ph, hrecord.skipped_iff.symm⟩
  case malformed =>
    rw [hdrOk, Option.isSome_eq_false_iff, Option.isNone_iff_eq_none]
    exact ⟨fun ⟨_, _, .malformed hfields⟩ => hfields, fun hfields => ⟨_, _, .malformed hfields⟩⟩
  case known =>
    exact ⟨fun ⟨_, _, .known hfields hmode hvalid huseful hmatch⟩ =>
        ⟨_, hfields, hmode, hvalid, _, huseful, (matchVector_eq_some_iff hdistinct).mp hmatch⟩,
      fun ⟨_, hfields, hmode, hvalid, _, huseful, hentry⟩ =>
        ⟨_, _, .known hfields hmode hvalid huseful ((matchVector_eq_some_iff hdistinct).mpr hentry)⟩⟩
  case unknown =>
    exact ⟨fun ⟨_, _, .unknown hfields hmode hvalid huseful hmatch⟩ =>
        ⟨_, hfields, hmode, hvalid, _, huseful, matchVector_eq_none_iff.mp hmatch⟩,
      fun ⟨_, hfields, hmode, hvalid, _, huseful, hno⟩ =>
        ⟨_, _, .unknown hfields hmode hvalid huseful (matchVector_eq_none_iff.mpr hno)⟩⟩
  case invalid =>
    exact ⟨fun ⟨_, _, .invalid hfields hmode hvalid⟩ => ⟨_, hfields, hmode, hvalid⟩,
      fun ⟨_, hfields, hmode, hvalid⟩ => ⟨_, _, .invalid hfields hmode hvalid⟩⟩
  case data =>
    exact ⟨fun ⟨_, _, .data hfields hmode⟩ => ⟨_, hfields, hmode⟩,
      fun ⟨_, hfields, hmode⟩ => ⟨_, _, .data hfields hmode⟩⟩

/-! The operations that ask their operands and the constants alone (R149). -/

/-- Such an operation returns a value that the constants determine, and writes nothing else (R149). -/
theorem exec_of_isPure {i : Instr} (hpure : isPure i = true) :
    ∃ value : Params → Ret, ∀ s, exec i s = .next { s with ret := value s.cfg } := by
  cases i
  case find pat sq start => exact ⟨fun _ => .offset (findPat pat sq start), fun _ => rfl⟩
  case parse f => exact ⟨fun _ => .parsed (parseFrame f), fun _ => rfl⟩
  case csum u => exact ⟨fun _ => .sum (checksum u), fun _ => rfl⟩
  case verify computed rx => exact ⟨fun _ => .verdict (verifyFlag computed rx), fun _ => rfl⟩
  case demux p => exact ⟨fun c => .record (demuxFrame c p), exec_demux p⟩
  case csDecode p => exact ⟨fun c => .status (decodeStatus c p), exec_csDecode p⟩
  case csMatch u => exact ⟨fun c => .entry (matchVector c u), exec_csMatch u⟩
  all_goals cases hpure

/-- Settles O49: the value of `exec_of_isPure` at the parameters the two states share. -/
theorem pureOperationsIgnoreState : Obligations.PureOperationsIgnoreState := by
  unfold Obligations.PureOperationsIgnoreState
  intro i hpure s u hcfg
  obtain ⟨value, hexec⟩ := exec_of_isPure hpure
  refine ⟨value s.cfg, hexec s, ?_⟩
  rw [hexec u, hcfg]

end Sys2Proof.Machine
end

section
/-! PROOFS. The records that leave the block (R142 to R148): `EMIT` and `OUT`, and what the rows of the parse-mode map
and of the status table deliver. -/

namespace Sys2Proof.Machine

theorem exec_emit (r : Record) (s : State) : exec (.emit r) s = .next (emitRecord r s) := rfl

/-- Settles O44: `EMIT` is `emitRecord`. -/
theorem emitExtendsTrace : Obligations.EmitExtendsTrace := by
  unfold Obligations.EmitExtendsTrace
  intro r s
  rw [exec_emit, emitRecord]

/-- Settles O51: an instruction but `RESET` adds records to `OUT` (`exec_presents`). -/
theorem outOnlyGrows : Obligations.OutOnlyGrows := by
  unfold Obligations.OutOnlyGrows
  intro i s t hi h
  obtain ⟨rs, hout, -⟩ := exec_presents h hi
  exact ⟨rs, hout.symm⟩

/-- A frame that has its PacketHeader fields says so (R122). -/
theorem hdrOk_restFrame (mode : Byte) (r : FrameRest) : hdrOk (parseFrame (restFrame mode r)) = true := by
  rw [hdrOk, parseFrame_restFrame_fields, Option.isSome_some]

/-- A row of the parse-mode map whose mode is not 0x00 delivers on DATA the record that `DEMUX` makes (R141, R146). -/
theorem exec_modeRow_data {mode : Byte} {known : Bool} {f : FrameRest} {i : Instr} (hrow : modeRow mode f = i)
    (hmode : mode ≠ 0x00#8) (hknown : modeKnownFlag mode = known) (s : State) :
    let r : Record := ⟨.data, parseFrame (restFrame mode f), some known, .absent⟩
    exec i s = .next (emitRecord r s) ∧ r = recordOf s.cfg (restFrame mode f) ∧ hdrOk r.parsed = true := by
  subst hrow hknown
  rw [← recordOf_restFrame_data s.cfg f hmode]
  exact ⟨exec_modeRow mode f s, rfl, by rw [recordOf, demuxFrame_parsed, hdrOk_restFrame]⟩

/-- Settles O45: the rows are those of `modeRow`, by their modes. -/
theorem modeRowsDeliver : Obligations.ModeRowsDeliver := by
  unfold Obligations.ModeRowsDeliver
  refine fun f s => ⟨fun x hx => ?known, fun m hunknown => ?unknown, ?status⟩
  case known =>
    have hrow : modeRow x.2 f = x.1 ∧ x.2 ≠ 0x00#8 ∧ modeKnownFlag x.2 = true := by
      simp only [List.mem_cons, List.not_mem_nil, or_false] at hx
      rcases hx with rfl | rfl | rfl | rfl | rfl | rfl <;> exact ⟨rfl, by simp, rfl⟩
    obtain ⟨hrow, hmode, hknown⟩ := hrow
    exact exec_modeRow_data hrow hmode hknown s
  case unknown =>
    have hmode : m ≠ 0x00#8 := by rintro rfl; cases hunknown
    exact exec_modeRow_data (modeRow_of_unknown hunknown f) hmode hunknown s
  case status =>
    refine ⟨exec_modeRow 0x00#8 f s, ?_⟩
    rw [recordOf_restFrame_status]
    exact ⟨rfl, rfl, hdrOk_restFrame 0x00#8 f⟩

/-- The command-status result of a mode-0x00 frame's record (R142). -/
theorem recordOf_restFrame_cs (p : Params) (r : FrameRest) :
    (recordOf p (restFrame 0x00#8 r)).cs =
      if restValid r then lookupResult (matchVector p (restUseful r)) else .skipped := by
  rw [recordOf_restFrame_status, decodeStatus_restFrame]

/-- A mode-0x00 frame's record is on the CS port (R141). -/
theorem recordOf_restFrame_port (p : Params) (r : FrameRest) : (recordOf p (restFrame 0x00#8 r)).port = .cs := by
  rw [recordOf_restFrame_status]

/-- Settles O46: a well-formed command-status row is that of `statusRow`, and the result is `recordOf_restFrame_cs`. -/
theorem commandStatusRowsDeliver : Obligations.CommandStatusRowsDeliver := by
  unfold Obligations.CommandStatusRowsDeliver
  intro f s
  have hexec := exec_statusRow f s
  have hcs := recordOf_restFrame_cs s.cfg f
  have hport := recordOf_restFrame_port s.cfg f
  refine ⟨fun hwf => ?thermistor, fun hwf => ?skipped, fun hwf => ?unknown⟩
  case thermistor =>
    simp only [wellFormed, Bool.and_eq_true, beq_iff_eq] at hwf
    obtain ⟨⟨-, hvalid⟩, hvector⟩ := hwf
    rw [statusRow, if_pos hvalid, if_pos hvector] at hexec
    rw [if_pos hvalid, hvector, matchVector_knownVector] at hcs
    exact ⟨hexec, hcs, csEvent_of_known hcs, hport⟩
  case skipped =>
    simp only [wellFormed, Bool.and_eq_true, Bool.not_eq_true'] at hwf
    obtain ⟨-, hvalid⟩ := hwf
    rw [statusRow, hvalid] at hexec
    rw [hvalid, if_neg Bool.false_ne_true] at hcs
    refine ⟨hexec, hcs, ?_, hport⟩
    rw [csEvent_of_not_known (by rw [hcs]; decide)]
  case unknown =>
    simp only [wellFormed, Bool.and_eq_true, bne_iff_ne] at hwf
    obtain ⟨⟨-, hvalid⟩, hvector⟩ := hwf
    rw [statusRow, if_pos hvalid, if_neg hvector] at hexec
    refine ⟨hexec, hport, fun hno => ?_⟩
    rw [if_pos hvalid, matchVector_eq_none_iff.mpr hno] at hcs
    refine ⟨hcs, ?_⟩
    rw [csEvent_of_not_known (by rw [hcs]; decide)]

end Sys2Proof.Machine
end

section
/-! PROOFS. What the host presents (R160): the pins select the operation, a word of the opcode table runs its row; and
the operations that scan nothing, `NOP`, `CLEAR`, the reserved code and `RESET` (R161 to R165). -/

namespace Sys2Proof.Machine

theorem exec_push (b : Byte) (s : State) : exec (.push b) s = .next (pushByte b s) := rfl

theorem exec_clear (d : Byte) (s : State) : exec (.clear d) s = .next (clearState s) := rfl

theorem exec_reset (w : CmdWord) (s : State) : exec (.reset w) s = .next (resetState s) := rfl

/-- The operation that the pins select (R61, R160). -/
theorem exec_decodePins (rst : Bool) (inw : CmdWord) (s : State) :
    exec (decodePins rst inw) s =
      if rst then exec (.reset inw) s
      else if inw.extractLsb' 8 2 = 0#2 then exec (.nop (inw.extractLsb' 0 8)) s
      else if inw.extractLsb' 8 2 = 1#2 then exec (.push (inw.extractLsb' 0 8)) s
      else if inw.extractLsb' 8 2 = 2#2 then exec (.clear (inw.extractLsb' 0 8)) s
      else .refused .reservedCommandWord := by
  unfold decodePins
  dsimp only
  split_ifs <;> rfl

/-- Every selection but that of the reserved code answers a next state (R62, R164). -/
theorem exec_decodePins_answers {rst : Bool} {inw : CmdWord} (h : rst = true ∨ inw.extractLsb' 8 2 ≠ 3#2) (s : State) :
    ∃ t, exec (decodePins rst inw) s = .next t := by
  rw [exec_decodePins]
  split_ifs with hrst h0 h1 h2
  · exact ⟨_, exec_reset inw s⟩
  · exact ⟨_, exec_nop _ s⟩
  · exact ⟨_, exec_push _ s⟩
  · exact ⟨_, exec_clear _ s⟩
  · have hreserved : inw.extractLsb' 8 2 = 3#2 := by bv_omega
    exact absurd hreserved (h.resolve_left hrst)

/-- Settles O2: the step is the decoded instruction on the begun step, and `exec_decodePins` says which it is. -/
theorem hostStepSelectsByPins : Obligations.HostStepSelectsByPins := by
  unfold Obligations.HostStepSelectsByPins
  intro s rst inw rest hlive hin
  dsimp only
  have hdec : decode (fetched s) = .ok (decodePins rst inw) := by rw [fetched_cons hin]; rfl
  rw [step_of_decode (mayStep_of_live hlive) hdec, beginStep_of_input_cons hin]
  exact ⟨exec_decodePins rst inw _, fun h => exec_decodePins_answers h _⟩

/-- What a row's bits are read as is what they decode to when presented (log 8). -/
theorem decode_of_decodeTableWord {nbits w : Nat} {i : Instr} (h : decodeTableWord nbits w = some i) :
    decode (tableWord nbits w) = .ok i := by
  unfold decodeTableWord at h
  split at h
  case h_1 j hdec => cases h; exact hdec
  case h_2 => cases h

/-- Settles O3: presenting a word makes the state live and puts the word where the step fetches it. -/
theorem opcodeTableWordRuns : Obligations.OpcodeTableWordRuns := by
  unfold Obligations.OpcodeTableWordRuns
  intro s nbits w i hword
  exact step_of_decode (s := s.withFetchWord nbits w) (mayStep_of_live rfl) (decode_of_decodeTableWord hword)

/-- Any number of `NOP` changes nothing (R161). -/
theorem execAll_nop (ds : List Byte) (s : State) : execAll (ds.map Instr.nop) s = .next s := by
  induction ds with
  | nil => rfl
  | cons d ds ih => exact ih

/-- Settles O7: a `NOP` answers the state itself, and a `SCAN` of an accumulator at rest is one pass without effect. -/
theorem nopLeavesEverything : Obligations.NopLeavesEverything := by
  unfold Obligations.NopLeavesEverything
  refine ⟨exec_nop, execAll_nop, fun s hrest => ⟨.scanned (phaseOf s.acc), ?scan⟩⟩
  case scan => rw [exec_scan, scanAll_of_noFrame (passOnce_of_atRest hrest), setRet]

/-- The status outputs of an empty accumulator with `OVF = 0` are all 0 (R27, R28). -/
theorem status_of_empty {s : State} (hacc : s.acc = []) (hovf : s.ovf = false) :
    stLevel s = 0 ∧ stPhase s = .needHeader ∧ stOvf s = false := by
  refine ⟨by rw [stLevel, hacc, List.length_nil], ?_, hovf⟩
  rw [stPhase, hacc]
  exact phaseOf_of_noHeader rfl

/-- Settles O8: `CLEAR` is `clearState`, which `RESET` is made of. -/
theorem clearEmptiesAccumulator : Obligations.ClearEmptiesAccumulator := by
  unfold Obligations.ClearEmptiesAccumulator
  intro d e w s
  obtain ⟨hlevel, hphase, hovf⟩ := status_of_empty (clearState_acc s) (clearState_ovf s)
  exact ⟨clearState s, resetState s, exec_clear d s, rfl, hlevel, hphase, hovf, exec_clear e _, exec_reset w s, rfl, rfl⟩

/-- Settles O9: the meaning of the code is this refusal. -/
theorem reservedWordRefused : Obligations.ReservedWordRefused := by
  unfold Obligations.ReservedWordRefused
  exact fun _ _ => rfl

/-- Settles O10: `RESET` is `resetState`, which reads nothing of the state but `cfg` and `input`. -/
theorem resetGivesInitialState : Obligations.ResetGivesInitialState := by
  unfold Obligations.ResetGivesInitialState
  refine ⟨fun w v s => ?state, fun w => rfl⟩
  case state =>
    obtain ⟨hlevel, hphase, hovf⟩ := status_of_empty (s := resetState s) rfl rfl
    exact ⟨resetState s, exec_reset w s, rfl, rfl, rfl, rfl, rfl, hlevel, hphase, hovf, exec_reset v _⟩

end Sys2Proof.Machine
end

section
/-! PROOFS. `PUSH` and `APPEND` (R162, R166, R169): what they are made of, and what a `PUSH` leaves. -/

namespace Sys2Proof.Machine

open Sys2Proof.Config

theorem exec_appendChunk (c : List Byte) (s : State) : exec (.appendChunk c) s = .next (appendAndScan c s) := rfl

/-- `SCAN` as an instruction leaves what the scan inside a `PUSH` or an `APPEND` leaves, but for the value it returns
(R10, R23). -/
theorem exec_scan_then_ret (s : State) :
    ∃ t, exec .scan s = .next t ∧ (scanAll s).2 = { t with ret := s.ret } := by
  obtain ⟨a, rs, heq⟩ := scanAll_frame s
  exact ⟨_, exec_scan s, by rw [heq]; rfl⟩

/-- Settles O12: `pushByte_of_room` and `pushByte_of_full`. -/
theorem pushAppendsThenScans : Obligations.PushAppendsThenScans := by
  unfold Obligations.PushAppendsThenScans
  refine fun b s => ⟨fun hroom => ?room, fun hfull => ?full⟩
  case room =>
    obtain ⟨t, hscan, heq⟩ := exec_scan_then_ret (appendBytes [b] s)
    exact ⟨_, t, exec_append [b] s, hscan, by rw [exec_push, pushByte_of_room b hroom, heq, appendBytes_ret]⟩
  case full =>
    obtain ⟨t, hscan, heq⟩ := exec_scan_then_ret (appendBytes [b] (takeOverflow s))
    refine ⟨takeOverflow s, _, t, exec_dropPrefix 1 _, exec_append [b] _, hscan, ?_⟩
    rw [exec_push, pushByte_of_full b hfull, heq, appendBytes_ret, takeOverflow_ret]

/-- Settles O56: `APPEND` is one `SCAN` without a capacity and a run of `PUSH` with one; neither clears `OVF`. -/
theorem chunkMeaning : Obligations.ChunkMeaning := by
  unfold Obligations.ChunkMeaning
  refine fun c s => ⟨fun hcap => ?unbounded, fun n hcap => ?bounded, appendAndScan c s, exec_appendChunk c s, ?sticky⟩
  case unbounded =>
    obtain ⟨t, hscan, heq⟩ := exec_scan_then_ret (appendBytes c s)
    refine ⟨_, t, exec_append c s, hscan, ?_⟩
    rw [exec_appendChunk, appendAndScan_of_unbounded c hcap, heq, appendBytes_ret]
  case bounded =>
    have hbounded : accCap s.cfg ≠ none := by rw [hcap]; nofun
    rw [exec_appendChunk, appendAndScan_of_bounded c hbounded, execAll_push]
  case sticky =>
    intro hovf
    obtain ⟨a, o, rs, heq⟩ := appendAndScan_frame c s
    rw [heq, hovf, Bool.true_or]

/-- Settles O13: the pass after the byte finds no frame, and is one of the three of R102 to R104 that find none. -/
theorem pushWithoutFrame : Obligations.PushWithoutFrame := by
  unfold Obligations.PushWithoutFrame
  intro b s hroom
  have exec_push_of_noFrame {why : Phase} {u : State} (hpass : passOnce (appendBytes [b] s) = (.noFrame why, u)) :
      exec (.push b) s = .next u := by rw [exec_push, pushByte_of_noFrame hroom hpass]
  exact ⟨fun hh => exec_push_of_noFrame (passOnce_of_noHeader hh),
    fun h hh hf => exec_push_of_noFrame (passOnce_of_noFooter hh hf),
    fun h f hh hf hshort => exec_push_of_noFrame (passOnce_of_noTrailer hh hf hshort)⟩

/-- When the frame of a pass is all that is left of `ACC`, `SCAN` emits its record and ends with `ACC` empty (R105). -/
theorem scanAll_of_lastFrame {s u : State} {f : List Byte} (hpass : passOnce s = (.frame f, u)) (hempty : u.acc = []) :
    (scanAll s).2 = emitRecord (recordOf u.cfg f) u := by
  have hend : (emitRecord (recordOf u.cfg f) u).acc = [] := hempty
  rw [scanAll_of_frame hpass, scanAll_of_noFrame (passOnce_of_empty hend)]

/-- Settles O14: the pass takes all bytes from the header on, and the scan ends there. -/
theorem pushCompletesFrame : Obligations.PushCompletesFrame := by
  unfold Obligations.PushCompletesFrame
  intro b s h f hroom hh hf hlen
  have hpass : passOnce (appendBytes [b] s) = (.frame ((s.acc ++ [b]).drop h), { s with acc := [] }) := by
    have hframe := passOnce_of_frame (s := appendBytes [b] s) hh hf hlen.ge
    rw [appendBytes_acc, ← hlen, slice_length_right, List.drop_length] at hframe
    exact hframe
  rw [exec_push, pushByte_of_room b hroom, scanAll_of_lastFrame hpass rfl]
  rfl

/-- A capacity is at least 16 (R9). -/
theorem sixteen_le_of_accCap {p : Params} {n : Nat} (h : accCap p = some n) : 16 ≤ n := by
  obtain ⟨k, -, rfl⟩ := Option.map_eq_some_iff.mp h
  exact Nat.le_add_right 16 k

/-- After the overflow the accumulator has room (R169). -/
theorem takeOverflow_has_room {s : State} (hfull : accCap s.cfg = some s.acc.length) :
    accCap (takeOverflow s).cfg ≠ some (takeOverflow s).acc.length := by
  have hcap := sixteen_le_of_accCap hfull
  rw [takeOverflow_cfg, hfull, takeOverflow_acc, List.length_drop, Ne, Option.some.injEq]
  omega

/-- A `PUSH` of a full accumulator is the `PUSH` after the overflow (R169). -/
theorem pushByte_takeOverflow {s : State} (b : Byte) (hfull : accCap s.cfg = some s.acc.length) :
    pushByte b s = pushByte b (takeOverflow s) := by
  rw [pushByte_of_full b hfull, pushByte_of_room b (takeOverflow_has_room hfull)]

/-- More than 8 bytes at rest begin with a header (R30). -/
theorem header_of_atRest {acc : List Byte} (hrest : atRest acc = true) (hlen : 8 < acc.length) : hdr <+: acc := by
  rcases (atRest_iff acc).mp hrest with ⟨-, hle⟩ | ⟨hpre, -⟩
  · omega
  · exact hpre

/-- Settles O15: `pushByte_takeOverflow`, `pushByte_ovf`, and the shape at rest of 16 bytes or more. -/
theorem pushWhenFull : Obligations.PushWhenFull := by
  unfold Obligations.PushWhenFull
  intro b s hfull
  have hcap := sixteen_le_of_accCap hfull
  refine ⟨congrArg Host.Outcome.next (pushByte_takeOverflow b hfull),
    ⟨_, exec_push b s, (pushByte_ovf b s).mpr (.inr hfull)⟩, fun hrest => ?oldest⟩
  case oldest => exact (take_eq_hdr_iff s.acc).mpr (header_of_atRest hrest (by omega))

end Sys2Proof.Machine
end

section
/-! PROOFS. How many frames a `PUSH` can complete (R167): none stands whole in an accumulator at rest, so that one byte
completes at most one, which ends with it. -/

namespace Sys2Proof.Machine

open Sys2Proof.Config

/-- No candidate frame stands anywhere in the bytes. -/
def NoWholeFrame (a : List Byte) : Prop := ∀ f, isCandidate f = true → ¬ f <:+: a

theorem NoWholeFrame.drop {a : List Byte} (h : NoWholeFrame a) (k : Nat) : NoWholeFrame (a.drop k) :=
  fun f hcand hin => h f hcand (hin.trans (List.drop_suffix k a).isInfix)

/-- An accumulator at rest holds no whole frame: its first footer after the header has fewer than 4 bytes after it, and
so has every later one (R30). -/
theorem noWholeFrame_of_atRest {a : List Byte} (hrest : atRest a = true) : NoWholeFrame a := by
  rintro f hcand ⟨before, after, rfl⟩
  obtain ⟨hlen, hhead, hfoot⟩ := footer_of_isCandidate hcand
  rw [List.append_assoc] at hrest
  have hdrop (k : Nat) : (before ++ (f ++ after)).drop (before.length + k) = (f ++ after).drop k := by
    rw [← List.drop_drop, List.drop_left]
  rcases (atRest_iff _).mp hrest with ⟨hno, -⟩ | ⟨-, hshort⟩
  case inl =>
    refine (findPat_eq_none hdr_ne_nil).mp hno (before.length + 0) (Nat.zero_le _) ?_
    rw [hdrop]
    exact ((take_eq_hdr_iff f).mp hhead).trans (List.prefix_append f after)
  case inr =>
    have hftr := ((findPat_eq_some ftr_ne_nil).mp (findPat_append ftr_ne_nil hfoot after)).2.1
    rw [← hdrop] at hftr
    cases hfirst : findPat ftr (before ++ (f ++ after)) 8 with
    | none => exact (findPat_eq_none ftr_ne_nil).mp hfirst _ (by omega) hftr
    | some g =>
      have hmin := ((findPat_eq_some ftr_ne_nil).mp hfirst).2.2
      have hg : g ≤ before.length + (f.length - 8) :=
        Nat.not_lt.mp fun hlt => hmin _ (by omega) hlt hftr
      have hend := hshort g hfirst
      rw [List.length_append, List.length_append] at hend
      omega

/-- A frame that a byte completes ends with that byte. -/
theorem NoWholeFrame.completed_by_last {a before f after : List Byte} {b : Byte} (h : NoWholeFrame a)
    (hcand : isCandidate f = true) (heq : a ++ [b] = before ++ f ++ after) : after = [] := by
  rcases List.eq_nil_or_concat' after with hnil | ⟨rest, c, rfl⟩
  · exact hnil
  · rw [← List.append_assoc] at heq
    exact absurd ⟨before, rest, (List.append_inj_left' heq rfl).symm⟩ (h f hcand)

/-- A byte after bytes without a whole frame completes no frame, or one, and then nothing stays (R105, R167). -/
theorem NoWholeFrame.scanAll_appendByte {s : State} (h : NoWholeFrame s.acc) (b : Byte) :
    (scanAll (appendBytes [b] s)).2.out = s.out ∨
    ∃ f, f <:+ s.acc ++ [b] ∧ isCandidate f = true ∧
      (scanAll (appendBytes [b] s)).2.out = s.out ++ [recordOf s.cfg f] ∧ (scanAll (appendBytes [b] s)).2.acc = [] := by
  obtain ⟨a, hacc⟩ := passOnce_frame (appendBytes [b] s)
  rcases hpass : passOnce (appendBytes [b] s) with ⟨f | why, u⟩ <;> rw [hpass] at hacc <;> dsimp only at hacc
  case noFrame =>
    left
    rw [scanAll_of_noFrame hpass, hacc, appendBytes_out]
  case frame =>
    right
    obtain ⟨hcand, before, hcut⟩ := passOnce_eq_frame hpass
    have hempty : u.acc = [] := h.completed_by_last hcand hcut
    rw [hempty, List.append_nil] at hcut
    refine ⟨f, ⟨before, hcut.symm⟩, hcand, ?_⟩
    rw [scanAll_of_lastFrame hpass hempty]
    exact ⟨by rw [hacc]; rfl, hempty⟩

/-- Settles O16: `ACC` at rest holds no whole frame, nor does it after the overflow. -/
theorem atMostOneRecordPerPush : Obligations.AtMostOneRecordPerPush := by
  unfold Obligations.AtMostOneRecordPerPush
  intro b s hrest
  have hnone := noWholeFrame_of_atRest hrest
  refine ⟨pushByte b s, exec_push b s, ?_⟩
  by_cases hfull : accCap s.cfg = some s.acc.length
  case neg =>
    rw [pushByte_of_room b hfull]
    exact hnone.scanAll_appendByte b
  case pos =>
    rw [pushByte_of_full b hfull]
    have hafter : NoWholeFrame (takeOverflow s).acc := hnone.drop 1
    rcases hafter.scanAll_appendByte b with hout | ⟨f, hsuf, hcand, hout, hempty⟩
    · exact .inl hout
    · exact .inr ⟨f, hsuf.trans (List.suffix_append_self_iff.mpr (List.drop_suffix 1 _)), hcand, hout, hempty⟩

end Sys2Proof.Machine
end

section
/-! PROOFS. The conditions (R181, R192): when a record reports each, and which exclude one another; and the records a
step presents (R191, R213). -/

namespace Sys2Proof.Machine

/-! When a record reports a condition (R181). -/

section
variable {r : Record}

/-- E4 is reported for a frame whose checksum does not match (R128, R183). -/
theorem e4_mem_recordConditions_iff :
    .e4ChecksumMismatch ∈ recordConditions r ↔ ∃ h, r.parsed.fields = some h ∧ h.valid = false := by
  cases hfields : r.parsed.fields <;> simp [recordConditions, hfields]

/-- E5 is reported for a frame whose declared length exceeds what it holds (R184). -/
theorem e5_mem_recordConditions_iff :
    .e5DataIncomplete ∈ recordConditions r ↔ ∃ h, r.parsed.fields = some h ∧ h.incomplete = true := by
  cases hfields : r.parsed.fields <;> simp [recordConditions, hfields]

/-- E6 is reported for a record whose `MODE_KNOWN` is 0, not for one without it (R72, R122). -/
theorem e6_mem_recordConditions_iff : .e6UnknownMode ∈ recordConditions r ↔ r.modeKnown = some false := by
  cases hfields : r.parsed.fields <;> simp [recordConditions, hfields]

/-- E7 is reported for a record whose vector the table does not hold (R144). -/
theorem e7_mem_recordConditions_iff : .e7UnknownCommand ∈ recordConditions r ↔ r.cs = .unknown := by
  cases hfields : r.parsed.fields <;> simp [recordConditions, hfields]

/-- E8 is reported for a frame without header fields (R122). -/
theorem e8_mem_recordConditions_iff : .e8Malformed ∈ recordConditions r ↔ r.parsed.fields = none := by
  cases hfields : r.parsed.fields <;> simp [recordConditions, hdrOk, hfields]

end

/-- `DEMUX` finds a command unknown only in a valid mode-0x00 frame (R142, R144). -/
theorem fields_of_unknown {c : Params} {p : Parsed} (hcs : (demuxFrame c p).cs = .unknown) :
    ∃ h, p.fields = some h ∧ h.mode = 0x00#8 ∧ h.valid = true := by
  have hv := hasVariant_demuxFrame c p
  rw [hcs] at hv
  generalize variantOf (demuxFrame c p) = v, (demuxFrame c p).port = port at hv
  cases hv with
  | unknown hfields hmode hvalid => exact ⟨_, hfields, hmode, hvalid⟩

/-- Settles O48: a malformed frame has no field that E4 to E7 test, and a frame with an unknown command is valid and of
the known mode 0x00. -/
theorem conditionsExclude : Obligations.ConditionsExclude := by
  unfold Obligations.ConditionsExclude
  intro c f
  dsimp only
  rw [recordOf]
  refine ⟨fun hmalformed => ?malformed, fun hunknown => ?unknown⟩
  case malformed =>
    rw [e8_mem_recordConditions_iff, demuxFrame_parsed] at hmalformed
    rw [e4_mem_recordConditions_iff, e5_mem_recordConditions_iff, e6_mem_recordConditions_iff,
      e7_mem_recordConditions_iff, demuxFrame_of_noFields hmalformed]
    simp [hmalformed]
  case unknown =>
    obtain ⟨h, hfields, hmode, hvalid⟩ := fields_of_unknown (e7_mem_recordConditions_iff.mp hunknown)
    rw [e4_mem_recordConditions_iff, e6_mem_recordConditions_iff, demuxFrame_of_status hfields hmode]
    simp [hfields, hvalid]

/-! The records a step presents (R191). -/

/-- `CLEAR` and `RESET` emit nothing, so the step that runs one presents nothing (R163, R165, R191). -/
theorem presented_of_step_clear_or_reset {s t : State} {i : Instr} (hdec : decode (fetched s) = .ok i)
    (hi : (∃ d, i = .clear d) ∨ ∃ w, i = .reset w) (hstep : step s = .next t) : t.presented = [] := by
  obtain ⟨j, -, hdec', hexec⟩ := step_eq_next hstep
  cases hdec.symm.trans hdec'
  rcases hi with ⟨d, rfl⟩ | ⟨w, rfl⟩
  · cases (exec_clear d _).symm.trans hexec
    rw [clearState_presented, beginStep_presented]
  · cases (exec_reset w _).symm.trans hexec
    rfl

/-- Settles O52: `step_presents`, and `CLEAR` and `RESET` add no record to the empty ports the step begins with. -/
theorem presentedIsThisStep : Obligations.PresentedIsThisStep := by
  unfold Obligations.PresentedIsThisStep
  exact ⟨fun _ _ => step_presents, fun _ _ _ => presented_of_step_clear_or_reset⟩

end Sys2Proof.Machine
end

section
/-! PROOFS. Before the first `RESET` (R201): what is presented decides whether there is a step, and the step there is
takes nothing over from the state it finds. -/

namespace Sys2Proof.Machine

/-- `RST = 1` selects `RESET`, whatever `IN` holds (R61, R160). -/
theorem decode_pins_rst (inw : CmdWord) : decode (.pins true inw) = .ok (.reset inw) := rfl

/-- `RST = 1` is presented by the pins at the head of the input list (R61). -/
theorem rstPresented_of_input_pins {s : State} {rst : Bool} {inw : CmdWord} {rest : List Presented}
    (hin : s.input = .pins rst inw :: rest) : rstPresented s = rst := by
  rw [rstPresented, fetched_cons hin]

/-- Before the first `RESET` there is a step where `RST = 1` is presented, and only there (R201). -/
theorem mayStep_of_not_live {s : State} (hlive : s.live = false) : mayStep s = rstPresented s := by
  rw [mayStep, hlive, Bool.false_or]

/-- A step that does not exist is refused (R201). -/
theorem step_of_not_mayStep {s : State} (hmay : mayStep s = false) : step s = .refused .beforeReset := by
  rw [step, if_neg (Bool.eq_false_iff.mp hmay)]

/-- `RESET` leaves the state after reset, beside the constants and the input (R165, R200). -/
theorem resetState_eq_reset (s : State) : resetState s = { State.reset with cfg := s.cfg, input := s.input } := rfl

/-- A step with `RST = 1` is `RESET`, before the first one and after it (R160, R165). -/
theorem step_of_input_rst {s : State} {inw : CmdWord} {rest : List Presented} (hin : s.input = .pins true inw :: rest) :
    step s = .next { State.reset with cfg := s.cfg, input := rest } := by
  have hmay : mayStep s = true := by rw [mayStep, rstPresented_of_input_pins hin, Bool.or_true]
  have hdec : decode (fetched s) = .ok (.reset inw) := by rw [fetched_cons hin, decode_pins_rst]
  calc step s = exec (.reset inw) (beginStep s) := step_of_decode hmay hdec
    _ = .next (resetState (beginStep s)) := exec_reset inw _
    _ = .next { State.reset with cfg := s.cfg, input := rest } := by
      rw [resetState_eq_reset, beginStep_of_input_cons hin]

/-- Settles O11: with `RST = 1` the step is `RESET` from any state, and without it there is none. -/
theorem onlyResetBeforeFirstReset : Obligations.OnlyResetBeforeFirstReset := by
  unfold Obligations.OnlyResetBeforeFirstReset
  intro s hlive
  refine ⟨?reset, ?other⟩
  case reset => exact fun _ _ hin => step_of_input_rst hin
  case other => exact fun hrst => step_of_not_mayStep ((mayStep_of_not_live hlive).trans hrst)

end Sys2Proof.Machine
end
